-- ==== Sys2Proof/Word.lean ====
section
/-!
DEFINITION. The word types of the CHIP-8 core: plain names for bit vectors of one fixed width and for a register
number. All values are unsigned (spec/00_scope.md R6); nothing here computes.
-/

namespace Sys2Proof

/-- A `u8`: a general register, a byte of Memory, a timer (00_scope.md R5). -/
abbrev Byte := BitVec 8

/-- A `u16`: PC, I, a return address of the call stack (00_scope.md R5). -/
abbrev Word := BitVec 16

/-- The 16-bit instruction word `op` (00_scope.md R7). -/
abbrev OpWord := BitVec 16

/-- A nibble, a 4-bit half-byte (00_scope.md R10): a sprite height, an ignored field, a key number. -/
abbrev Nibble := BitVec 4

/-- The 12-bit immediate `nnn` (30_encoding.md R93). -/
abbrev Imm12 := BitVec 12

/-- A register number 0..15 (10_state.md R20): every value is legal, 15 is VF. -/
abbrev Reg := Fin 16

/-- VF, the flag register, the same register as V[0xF] (10_state.md R21). -/
abbrev Reg.vf : Reg := 15

end Sys2Proof
end

