-- ==== Sys2Proof/Machine/Flags.lean ====
section
/-!
DEFINITION. The values written to VF (spec/10_state.md R21: always 0 or 1), each computed from the operands as they
were before the instruction (42_alu.md R160).
-/

namespace Sys2Proof.Machine

/-- A condition as the byte 1 or 0. -/
def flagByte (c : Bool) : Byte := if c then 1 else 0

/-- ADD_REG: the exact sum exceeds 255 (42_alu.md R165). -/
def carryFlag (a b : Byte) : Byte := flagByte (decide (a.toNat + b.toNat > 255))

/-- SUB and SUBN: the minuend is strictly greater, unsigned; equality gives 0 (42_alu.md R166, R168). -/
def greaterFlag (minuend subtrahend : Byte) : Byte := flagByte (decide (minuend.toNat > subtrahend.toNat))

/-- SHR: the bit shifted out, bit 0 (42_alu.md R167). -/
def lowBitFlag (a : Byte) : Byte := flagByte (a.getLsbD 0)

/-- SHL: the bit shifted out, bit 7 (42_alu.md R169). -/
def highBitFlag (a : Byte) : Byte := flagByte (a.getLsbD 7)

/-- DRW: at least one pixel went from on to off (43_display.md R181). -/
def collisionFlag (collided : Bool) : Byte := flagByte collided

end Sys2Proof.Machine
end

