-- ==== Sys2Proof/Syntax.lean ====
section
/-!
DEFINITION. The instruction set: one constructor per row of spec/opcode_table.json, in the table's order
(spec/30_encoding.md R97). A field's type is its range, so every term is an instruction of the core. Bits that the
spec decodes without using (op[3:0] of SE_REG and SNE_REG, the y field of SHR and SHL; R96) are kept as an operand,
so that a term stands for exactly one word; no meaning reads them.
-/

namespace Sys2Proof

/-- The 34 instructions (30_encoding.md R97). -/
inductive Instr where
  /-- CLS, 00E0 (43_display.md R180). -/
  | cls
  /-- RET, 00EE (40_control_flow.md R120). -/
  | ret
  /-- JP nnn, 1nnn (R121). -/
  | jp (nnn : Imm12)
  /-- CALL nnn, 2nnn (R122). -/
  | call (nnn : Imm12)
  /-- SE_IMM Vx, kk, 3xkk (R124). -/
  | seImm (x : Reg) (kk : Byte)
  /-- SNE_IMM Vx, kk, 4xkk (R125). -/
  | sneImm (x : Reg) (kk : Byte)
  /-- SE_REG Vx, Vy, 5xyu; u is ignored (R126, 30_encoding.md R96). -/
  | seReg (x y : Reg) (u : Nibble)
  /-- LD_IMM Vx, kk, 6xkk (41_load_immediate.md R140). -/
  | ldImm (x : Reg) (kk : Byte)
  /-- ADD_IMM Vx, kk, 7xkk (R141). -/
  | addImm (x : Reg) (kk : Byte)
  /-- LD_REG Vx, Vy, 8xy0 (42_alu.md R161). -/
  | ldReg (x y : Reg)
  /-- OR Vx, Vy, 8xy1 (R162). -/
  | orReg (x y : Reg)
  /-- AND Vx, Vy, 8xy2 (R163). -/
  | andReg (x y : Reg)
  /-- XOR Vx, Vy, 8xy3 (R164). -/
  | xorReg (x y : Reg)
  /-- ADD_REG Vx, Vy, 8xy4 (R165). -/
  | addReg (x y : Reg)
  /-- SUB Vx, Vy, 8xy5 (R166). -/
  | sub (x y : Reg)
  /-- SHR Vx, 8xy6; y is ignored (R167, 30_encoding.md R96). -/
  | shr (x y : Reg)
  /-- SUBN Vx, Vy, 8xy7 (R168). -/
  | subn (x y : Reg)
  /-- SHL Vx, 8xyE; y is ignored (R169, 30_encoding.md R96). -/
  | shl (x y : Reg)
  /-- SNE_REG Vx, Vy, 9xyu; u is ignored (40_control_flow.md R127, 30_encoding.md R96). -/
  | sneReg (x y : Reg) (u : Nibble)
  /-- LD_I nnn, Annn (41_load_immediate.md R142). -/
  | ldI (nnn : Imm12)
  /-- JP_V0 nnn, Bnnn (40_control_flow.md R123). -/
  | jpV0 (nnn : Imm12)
  /-- RND Vx, kk, Cxkk (41_load_immediate.md R143). -/
  | rnd (x : Reg) (kk : Byte)
  /-- DRW Vx, Vy, n, Dxyn (43_display.md R181). -/
  | drw (x y : Reg) (n : Nibble)
  /-- SKP Vx, Ex9E (44_keypad.md R190). -/
  | skp (x : Reg)
  /-- SKNP Vx, ExA1 (R191). -/
  | sknp (x : Reg)
  /-- LD_VX_DT Vx, Fx07 (45_timers.md R200). -/
  | ldVxDt (x : Reg)
  /-- LD_VX_K Vx, Fx0A (44_keypad.md R192). -/
  | ldVxK (x : Reg)
  /-- LD_DT_VX Vx, Fx15 (45_timers.md R201). -/
  | ldDtVx (x : Reg)
  /-- LD_ST_VX Vx, Fx18 (R202). -/
  | ldStVx (x : Reg)
  /-- ADD_I Vx, Fx1E (46_index_memory.md R210). -/
  | addI (x : Reg)
  /-- LD_F Vx, Fx29 (R211). -/
  | ldF (x : Reg)
  /-- LD_BCD Vx, Fx33 (R212). -/
  | ldBcd (x : Reg)
  /-- ST_REGS Vx, Fx55 (R213). -/
  | stRegs (x : Reg)
  /-- LD_REGS Vx, Fx65 (R214). -/
  | ldRegs (x : Reg)
  deriving DecidableEq, Repr

end Sys2Proof
end

