-- ==== Sys2Proof/WellFormed.lean ====
section
/-!
DEFINITION. Well-formedness. The types of `Instr` already bound every operand (spec/30_encoding.md R92: every value
of every field is legal), so no term of `Instr` lies outside the instruction set. Two checks remain: `legalWord`,
the spec's own list of the words that are NOT instructions (R98), written from that list and not from the decoder;
and `Instr.canonical`, the spelling an assembler emits, with every ignored bit 0 (R96, R102). A term that is not
canonical is still an instruction, and it is executed.
-/

namespace Sys2Proof

/-- The words that are instructions, by the table of illegal words of 30_encoding.md R98: family 0x0 but for 00E0 and
00EE, seven low nibbles of family 0x8, and all but the listed low bytes of families 0xE and 0xF are illegal. -/
def legalWord (op : OpWord) : Bool :=
  let top := op.toNat / 4096
  let low := op.toNat % 16
  let kk := op.toNat % 256
  if top = 0x0 then op.toNat == 0x00E0 || op.toNat == 0x00EE
  else if top = 0x8 then !([0x8, 0x9, 0xA, 0xB, 0xC, 0xD, 0xF].contains low)
  else if top = 0xE then [0x9E, 0xA1].contains kk
  else if top = 0xF then [0x07, 0x0A, 0x15, 0x18, 0x1E, 0x29, 0x33, 0x55, 0x65].contains kk
  else true

/-- The ignored bits are 0, as an assembler emits them (30_encoding.md R96, R102): u of SE_REG and SNE_REG, y of SHR
and SHL. -/
def Instr.canonical : Instr → Bool
  | .seReg _ _ u => u == 0
  | .sneReg _ _ u => u == 0
  | .shr _ y => y == 0
  | .shl _ y => y == 0
  | .cls | .ret | .jp _ | .call _ | .seImm _ _ | .sneImm _ _ | .ldImm _ _ | .addImm _ _ => true
  | .ldReg _ _ | .orReg _ _ | .andReg _ _ | .xorReg _ _ | .addReg _ _ | .sub _ _ | .subn _ _ => true
  | .ldI _ | .jpV0 _ | .rnd _ _ | .drw _ _ _ | .skp _ | .sknp _ => true
  | .ldVxDt _ | .ldVxK _ | .ldDtVx _ | .ldStVx _ | .addI _ | .ldF _ | .ldBcd _ | .stRegs _ | .ldRegs _ => true

end Sys2Proof
end

