-- ==== Sys2Proof/Decode.lean ====
section
/-!
DEFINITION. Decoding and encoding (spec/30_encoding.md). The fields of R92, the two-level decode of R94, the opcode
map of R97 as a table of mask and match, a decoder that is total on any bytes and rejects by name, and the encoder
written from the same formats (R91).
-/

namespace Sys2Proof

/-! ### Fields of the instruction word (30_encoding.md R92) -/

/-- `top = op[15:12]`. -/
def fieldTop (op : OpWord) : Nibble := op.extractLsb' 12 4

/-- `x = op[11:8]`, a register number. -/
def fieldX (op : OpWord) : Reg := (op.extractLsb' 8 4).toFin

/-- `y = op[7:4]`, a register number. -/
def fieldY (op : OpWord) : Reg := (op.extractLsb' 4 4).toFin

/-- `n = op[3:0]`; also the low nibble on which family 0x8 is decoded. -/
def fieldN (op : OpWord) : Nibble := op.extractLsb' 0 4

/-- `kk = op[7:0]`; also the low byte on which families 0xE and 0xF are decoded. -/
def fieldKk (op : OpWord) : Byte := op.extractLsb' 0 8

/-- `nnn = op[11:0]`. -/
def fieldNnn (op : OpWord) : Imm12 := op.extractLsb' 0 12

/-- Two bytes joined big-endian, the first one the more significant (20_memory.md R65). -/
def joinBigEndian (hi lo : Byte) : OpWord := hi ++ lo

/-! ### Decoding a word (30_encoding.md R94) -/

/-- Family 0x0: the two whole words 00E0 and 00EE. -/
def decodeFamily0 (op : OpWord) : Option Instr :=
  if op = 0x00E0#16 then some .cls
  else if op = 0x00EE#16 then some .ret
  else none

/-- Family 0x8, decoded further on the low nibble. -/
def decodeFamily8 (op : OpWord) : Option Instr :=
  match (fieldN op).toNat with
  | 0x0 => some (.ldReg (fieldX op) (fieldY op))
  | 0x1 => some (.orReg (fieldX op) (fieldY op))
  | 0x2 => some (.andReg (fieldX op) (fieldY op))
  | 0x3 => some (.xorReg (fieldX op) (fieldY op))
  | 0x4 => some (.addReg (fieldX op) (fieldY op))
  | 0x5 => some (.sub (fieldX op) (fieldY op))
  | 0x6 => some (.shr (fieldX op) (fieldY op))
  | 0x7 => some (.subn (fieldX op) (fieldY op))
  | 0xE => some (.shl (fieldX op) (fieldY op))
  | _ => none

/-- Family 0xE, decoded further on the low byte (90_conflicts.md C5). -/
def decodeFamilyE (op : OpWord) : Option Instr :=
  match (fieldKk op).toNat with
  | 0x9E => some (.skp (fieldX op))
  | 0xA1 => some (.sknp (fieldX op))
  | _ => none

/-- Family 0xF, decoded further on the low byte. -/
def decodeFamilyF (op : OpWord) : Option Instr :=
  match (fieldKk op).toNat with
  | 0x07 => some (.ldVxDt (fieldX op))
  | 0x0A => some (.ldVxK (fieldX op))
  | 0x15 => some (.ldDtVx (fieldX op))
  | 0x18 => some (.ldStVx (fieldX op))
  | 0x1E => some (.addI (fieldX op))
  | 0x29 => some (.ldF (fieldX op))
  | 0x33 => some (.ldBcd (fieldX op))
  | 0x55 => some (.stRegs (fieldX op))
  | 0x65 => some (.ldRegs (fieldX op))
  | _ => none

/-- `Decode(op)`: first on the top nibble; `none` is the spec's `none`, the word that matches no row
(30_encoding.md R94, R98). -/
def decodeWord (op : OpWord) : Option Instr :=
  match (fieldTop op).toNat with
  | 0x0 => decodeFamily0 op
  | 0x1 => some (.jp (fieldNnn op))
  | 0x2 => some (.call (fieldNnn op))
  | 0x3 => some (.seImm (fieldX op) (fieldKk op))
  | 0x4 => some (.sneImm (fieldX op) (fieldKk op))
  | 0x5 => some (.seReg (fieldX op) (fieldY op) (fieldN op))
  | 0x6 => some (.ldImm (fieldX op) (fieldKk op))
  | 0x7 => some (.addImm (fieldX op) (fieldKk op))
  | 0x8 => decodeFamily8 op
  | 0x9 => some (.sneReg (fieldX op) (fieldY op) (fieldN op))
  | 0xA => some (.ldI (fieldNnn op))
  | 0xB => some (.jpV0 (fieldNnn op))
  | 0xC => some (.rnd (fieldX op) (fieldKk op))
  | 0xD => some (.drw (fieldX op) (fieldY op) (fieldN op))
  | 0xE => decodeFamilyE op
  | 0xF => decodeFamilyF op
  | _ => none

/-! ### Decoding bytes -/

/-- Why bytes are no instruction. -/
inductive DecodeReject where
  /-- Fewer than two bytes: an instruction is exactly two (30_encoding.md R90). -/
  | truncated
  /-- The word matches no row of the opcode map (30_encoding.md R98): the STEP raises DecodeError. -/
  | noPattern (op : OpWord)
  deriving DecidableEq, Repr

/-- The instruction at the head of a byte sequence, and the rest; big-endian, two bytes (30_encoding.md R90). -/
def decode : List Byte → Except DecodeReject (Instr × List Byte)
  | hi :: lo :: rest =>
    match decodeWord (joinBigEndian hi lo) with
    | some i => .ok (i, rest)
    | none => .error (.noPattern (joinBigEndian hi lo))
  | _ => .error .truncated

/-! ### Encoding (30_encoding.md R91, R97) -/

/-- A register number as the four bits of a field. -/
def regBits (x : Reg) : Nibble := BitVec.ofFin x

/-- Format XK: `top x kk`. -/
def encodeXK (top : Nibble) (x : Reg) (kk : Byte) : OpWord := top ++ regBits x ++ kk

/-- Formats XY and XYN: `top x y n`. -/
def encodeXYN (top : Nibble) (x y : Reg) (n : Nibble) : OpWord := top ++ regBits x ++ regBits y ++ n

/-- Format A: `top nnn`. -/
def encodeA (top : Nibble) (nnn : Imm12) : OpWord := top ++ nnn

/-- The word of an instruction. -/
def encode : Instr → OpWord
  | .cls => 0x00E0#16
  | .ret => 0x00EE#16
  | .jp nnn => encodeA 0x1#4 nnn
  | .call nnn => encodeA 0x2#4 nnn
  | .seImm x kk => encodeXK 0x3#4 x kk
  | .sneImm x kk => encodeXK 0x4#4 x kk
  | .seReg x y u => encodeXYN 0x5#4 x y u
  | .ldImm x kk => encodeXK 0x6#4 x kk
  | .addImm x kk => encodeXK 0x7#4 x kk
  | .ldReg x y => encodeXYN 0x8#4 x y 0x0#4
  | .orReg x y => encodeXYN 0x8#4 x y 0x1#4
  | .andReg x y => encodeXYN 0x8#4 x y 0x2#4
  | .xorReg x y => encodeXYN 0x8#4 x y 0x3#4
  | .addReg x y => encodeXYN 0x8#4 x y 0x4#4
  | .sub x y => encodeXYN 0x8#4 x y 0x5#4
  | .shr x y => encodeXYN 0x8#4 x y 0x6#4
  | .subn x y => encodeXYN 0x8#4 x y 0x7#4
  | .shl x y => encodeXYN 0x8#4 x y 0xE#4
  | .sneReg x y u => encodeXYN 0x9#4 x y u
  | .ldI nnn => encodeA 0xA#4 nnn
  | .jpV0 nnn => encodeA 0xB#4 nnn
  | .rnd x kk => encodeXK 0xC#4 x kk
  | .drw x y n => encodeXYN 0xD#4 x y n
  | .skp x => encodeXK 0xE#4 x 0x9E#8
  | .sknp x => encodeXK 0xE#4 x 0xA1#8
  | .ldVxDt x => encodeXK 0xF#4 x 0x07#8
  | .ldVxK x => encodeXK 0xF#4 x 0x0A#8
  | .ldDtVx x => encodeXK 0xF#4 x 0x15#8
  | .ldStVx x => encodeXK 0xF#4 x 0x18#8
  | .addI x => encodeXK 0xF#4 x 0x1E#8
  | .ldF x => encodeXK 0xF#4 x 0x29#8
  | .ldBcd x => encodeXK 0xF#4 x 0x33#8
  | .stRegs x => encodeXK 0xF#4 x 0x55#8
  | .ldRegs x => encodeXK 0xF#4 x 0x65#8

/-- The two bytes of a word as the hardware stores them, the high byte at the lower address (20_memory.md R65). -/
def wordBytes (op : OpWord) : List Byte := [op.extractLsb' 8 8, op.extractLsb' 0 8]

/-! ### The opcode map as a table (30_encoding.md R97) -/

/-- A row of spec/opcode_table.json: its mnemonic, mask and match. -/
structure OpcodeRow where
  mnemonic : String
  mask : OpWord
  pattern : OpWord
  deriving DecidableEq, Repr

/-- A word matches a row when its bits under the mask are the row's. -/
def OpcodeRow.covers (r : OpcodeRow) (op : OpWord) : Bool := op &&& r.mask == r.pattern

/-- The rows that are decoded on the whole word or on the top nibble alone. -/
def opcodeRowsTop : List OpcodeRow :=
  [⟨"CLS", 0xFFFF, 0x00E0⟩, ⟨"RET", 0xFFFF, 0x00EE⟩, ⟨"JP", 0xF000, 0x1000⟩, ⟨"CALL", 0xF000, 0x2000⟩,
   ⟨"SE_IMM", 0xF000, 0x3000⟩, ⟨"SNE_IMM", 0xF000, 0x4000⟩, ⟨"SE_REG", 0xF000, 0x5000⟩,
   ⟨"LD_IMM", 0xF000, 0x6000⟩, ⟨"ADD_IMM", 0xF000, 0x7000⟩, ⟨"SNE_REG", 0xF000, 0x9000⟩,
   ⟨"LD_I", 0xF000, 0xA000⟩, ⟨"JP_V0", 0xF000, 0xB000⟩, ⟨"RND", 0xF000, 0xC000⟩, ⟨"DRW", 0xF000, 0xD000⟩]

/-- The rows of family 0x8. -/
def opcodeRows8 : List OpcodeRow :=
  [⟨"LD_REG", 0xF00F, 0x8000⟩, ⟨"OR", 0xF00F, 0x8001⟩, ⟨"AND", 0xF00F, 0x8002⟩, ⟨"XOR", 0xF00F, 0x8003⟩,
   ⟨"ADD_REG", 0xF00F, 0x8004⟩, ⟨"SUB", 0xF00F, 0x8005⟩, ⟨"SHR", 0xF00F, 0x8006⟩, ⟨"SUBN", 0xF00F, 0x8007⟩,
   ⟨"SHL", 0xF00F, 0x800E⟩]

/-- The rows of families 0xE and 0xF. -/
def opcodeRowsEF : List OpcodeRow :=
  [⟨"SKP", 0xF0FF, 0xE09E⟩, ⟨"SKNP", 0xF0FF, 0xE0A1⟩, ⟨"LD_VX_DT", 0xF0FF, 0xF007⟩, ⟨"LD_VX_K", 0xF0FF, 0xF00A⟩,
   ⟨"LD_DT_VX", 0xF0FF, 0xF015⟩, ⟨"LD_ST_VX", 0xF0FF, 0xF018⟩, ⟨"ADD_I", 0xF0FF, 0xF01E⟩, ⟨"LD_F", 0xF0FF, 0xF029⟩,
   ⟨"LD_BCD", 0xF0FF, 0xF033⟩, ⟨"ST_REGS", 0xF0FF, 0xF055⟩, ⟨"LD_REGS", 0xF0FF, 0xF065⟩]

/-- The 34 rows. -/
def opcodeRows : List OpcodeRow := opcodeRowsTop ++ opcodeRows8 ++ opcodeRowsEF

/-- The row's mnemonic of an instruction (30_encoding.md R97, R102). -/
def Instr.mnemonic : Instr → String
  | .cls => "CLS"
  | .ret => "RET"
  | .jp _ => "JP"
  | .call _ => "CALL"
  | .seImm _ _ => "SE_IMM"
  | .sneImm _ _ => "SNE_IMM"
  | .seReg _ _ _ => "SE_REG"
  | .ldImm _ _ => "LD_IMM"
  | .addImm _ _ => "ADD_IMM"
  | .ldReg _ _ => "LD_REG"
  | .orReg _ _ => "OR"
  | .andReg _ _ => "AND"
  | .xorReg _ _ => "XOR"
  | .addReg _ _ => "ADD_REG"
  | .sub _ _ => "SUB"
  | .shr _ _ => "SHR"
  | .subn _ _ => "SUBN"
  | .shl _ _ => "SHL"
  | .sneReg _ _ _ => "SNE_REG"
  | .ldI _ => "LD_I"
  | .jpV0 _ => "JP_V0"
  | .rnd _ _ => "RND"
  | .drw _ _ _ => "DRW"
  | .skp _ => "SKP"
  | .sknp _ => "SKNP"
  | .ldVxDt _ => "LD_VX_DT"
  | .ldVxK _ => "LD_VX_K"
  | .ldDtVx _ => "LD_DT_VX"
  | .ldStVx _ => "LD_ST_VX"
  | .addI _ => "ADD_I"
  | .ldF _ => "LD_F"
  | .ldBcd _ => "LD_BCD"
  | .stRegs _ => "ST_REGS"
  | .ldRegs _ => "LD_REGS"

/-! ### The host's question -/

/-- The word that the table's numbering calls `w`: the instruction is one 16-bit word whose bit 0 is bit 0 of `w`;
bits of `w` above `nbits` count as 0. -/
def tableWord (nbits w : Nat) : OpWord := BitVec.ofNat 16 (w % 2 ^ nbits)

/-- The instruction the decoder reads from the bytes of a table word, laid out as the hardware stores them. -/
def decodeTableWord (nbits w : Nat) : Option Instr :=
  match decode (wordBytes (tableWord nbits w)) with
  | .ok (i, _) => some i
  | .error _ => none

end Sys2Proof
end

