-- ==== Sys2Proof/Machine/Glyphs.lean ====
section
/-!
DEFINITION. `GLYPH_ROM`, the 80 bytes of the sixteen hexadecimal glyphs, a constant of the configuration
(spec/00_scope.md R5, 20_memory.md R64). The source gives no bytes; these are the spec's default, "from general
knowledge, not in source" (PRESUMED, log 7): a claim about glyph pixels names `Config.glyphRom`.
-/

namespace Sys2Proof

/-- Glyphs of the digits 0 to 7. -/
def Config.glyphsLow : List Byte :=
  [0xF0, 0x90, 0x90, 0x90, 0xF0] ++ [0x20, 0x60, 0x20, 0x20, 0x70] ++
  [0xF0, 0x10, 0xF0, 0x80, 0xF0] ++ [0xF0, 0x10, 0xF0, 0x10, 0xF0] ++
  [0x90, 0x90, 0xF0, 0x10, 0x10] ++ [0xF0, 0x80, 0xF0, 0x10, 0xF0] ++
  [0xF0, 0x80, 0xF0, 0x90, 0xF0] ++ [0xF0, 0x10, 0x20, 0x40, 0x40]

/-- Glyphs of the digits 8 to F. -/
def Config.glyphsHigh : List Byte :=
  [0xF0, 0x90, 0xF0, 0x90, 0xF0] ++ [0xF0, 0x90, 0xF0, 0x10, 0xF0] ++
  [0xF0, 0x90, 0xF0, 0x90, 0x90] ++ [0xE0, 0x90, 0xE0, 0x90, 0xE0] ++
  [0xF0, 0x80, 0x80, 0x80, 0xF0] ++ [0xE0, 0x90, 0x90, 0x90, 0xE0] ++
  [0xF0, 0x80, 0xF0, 0x80, 0xF0] ++ [0xF0, 0x80, 0xF0, 0x80, 0x80]

/-- `GLYPH_ROM`, five bytes a digit in digit order (20_memory.md R62, R64). -/
def Config.glyphRom : List Byte := Config.glyphsLow ++ Config.glyphsHigh

end Sys2Proof
end

