-- ==== Sys2Proof/Config.lean ====
section
/-!
DEFINITION. The parameters of the core (spec/00_scope.md R5) and the free values: the inputs of a STEP for which no
script of the host gives a value. GLYPH_ROM, the one parameter that is a table, is `Config.glyphRom` in
Machine/Glyphs.lean.
-/

namespace Sys2Proof.Config

/-- `MEM_SIZE`: 4096 bytes, addresses 0x000 to 0xFFF (00_scope.md R5, 20_memory.md R60). -/
abbrev memSize : Nat := 4096

/-- `STACK_DEPTH`: 16 entries (00_scope.md R5). -/
abbrev stackDepth : Nat := 16

/-- `PROG_BASE`: the load address of the program image and the value of PC after a load (00_scope.md R5). -/
abbrev progBase : Nat := 0x200

/-- `PROG_MAX`: the largest image, 4096 − 512 bytes (00_scope.md R5). -/
abbrev progMax : Nat := 3584

/-- `FB_W`: display width in pixels (00_scope.md R5). -/
abbrev fbWidth : Nat := 64

/-- `FB_H`: display height in pixels (00_scope.md R5). -/
abbrev fbHeight : Nat := 32

/-- `key_down` of the n-th STEP whose inputs no script gives: a free value, nothing constrains it
(10_state.md R39, 93_implementation_defined.md U6; DESIGN CHOICE, log 3). -/
opaque freeKeyDown : Nat → BitVec 16

/-- `key_event` of the n-th STEP whose inputs no script gives: a free value (10_state.md R39,
93_implementation_defined.md U6; DESIGN CHOICE, log 3). -/
opaque freeKeyEvent : Nat → Option Nibble

/-- `rand_byte` of the n-th STEP whose inputs no script gives: a free value, "a free input under no law"
(10_state.md R39, 93_implementation_defined.md U4; DESIGN CHOICE, log 3). -/
opaque freeRandByte : Nat → Byte

end Sys2Proof.Config
end

