-- ==== Sys2Proof/Machine/State.lean ====
section
/-!
DEFINITION. The state of the core as plain data (spec/10_state.md), the inputs of a STEP and the host's events, the
reasons a step can stop, and the state right after RESET.
-/

namespace Sys2Proof.Machine

/-- ERR's values: the error codes of 60_exceptions.md R230. Codes 5 to 7 never occur (10_state.md R31). -/
inductive ErrCode where
  /-- Code 0: no error so far. -/
  | noError
  /-- Code 1: the fetched word matches no opcode row. -/
  | decodeError
  /-- Code 2: CALL at full depth. -/
  | stackOverflow
  /-- Code 3: RET at zero depth. -/
  | stackUnderflow
  /-- Code 4: a data access at 4096 or above, or an image longer than 3584 bytes. -/
  | memoryOutOfBounds
  deriving DecidableEq, Repr

/-- The three inputs the driver supplies with a STEP (10_state.md R39). -/
structure StepInput where
  /-- `key_down[15:0]`: bit k is 1 when logical key k is held. -/
  keyDown : BitVec 16
  /-- `key_event`: none, or some key number 0..15. -/
  keyEvent : Option Nibble
  /-- `rand_byte`, a free input under no law. -/
  randByte : Byte
  deriving DecidableEq, Repr

/-- What the field of the inputs holds while no STEP is being executed: no key held, no key event, byte 0. It is one
constant, so that nothing of a STEP's inputs stays behind it (44_keypad.md R193; DESIGN CHOICE, log 4). -/
def StepInput.absent : StepInput := ⟨0, none, 0⟩

/-- The four events by which the state changes (10_state.md R36). -/
inductive HostEvent where
  /-- RESET (70_reset_and_hazards.md R260). -/
  | reset
  /-- LOAD(image) (70_reset_and_hazards.md R262). -/
  | load (image : List Byte)
  /-- STEP(key_down, key_event, rand_byte) (10_state.md R41). -/
  | step (input : StepInput)
  /-- TICK (60_exceptions.md R243). -/
  | tick
  deriving DecidableEq, Repr

/-- Memory as the bytes that differ from what they hold after RESET, addresses strictly rising (Machine/Memory.lean). -/
abbrev Memory := List Host.Cell

/-- The Display Buffer, `fb[px][py]`: 64 columns of 32 pixels (10_state.md R29). -/
abbrev Display := Vector (Vector Bool 32) 64

/-- The state. The first eleven fields are the architectural state, complete by 10_state.md R33; the last four are the
model's own: the inputs of the STEP being executed, the host's pending events, the number of STEPs whose inputs were
free values, and the launch order the host must keep. -/
structure State where
  /-- V[0]..V[15] (10_state.md R20). -/
  v : Vector Byte 16
  /-- PC, the address of the instruction to execute (R23). -/
  pc : Word
  /-- I, the address register (R26). -/
  i : Word
  /-- STK[0]..STK[15], the call stack (R27). -/
  stk : Vector Word 16
  /-- SP, the depth of the call stack, 0..16 (R27). -/
  sp : Fin 17
  /-- FB, the Display Buffer (R29). -/
  fb : Display
  /-- DT, the delay timer (R30). -/
  dt : Byte
  /-- ST, the sound timer (R30). -/
  st : Byte
  /-- MEM (20_memory.md R60). -/
  mem : Memory
  /-- ERR (10_state.md R31). -/
  err : ErrCode
  /-- WAIT (R32). -/
  wait : Bool
  /-- The inputs sampled by the STEP being executed (R39); an instruction reads them here. Between STEPs
  `StepInput.absent`. -/
  inputs : StepInput
  /-- The host's pending events, the next one first (R36, R40). -/
  script : List HostEvent
  /-- How many STEPs took their inputs from the free values of Config. -/
  freeIndex : Nat
  /-- Whether a LOAD was issued since RESET (70_reset_and_hazards.md R264). -/
  loadIssued : Bool
  deriving DecidableEq, Repr

/-- Why the machine stops with a fault: never. The spec's four fatal errors are states of the core, with ERR written,
in which TICK and the outputs go on (60_exceptions.md R235, R236), so no step answers a fault (log 1; safe, as there is
no constructor to raise). -/
inductive Fault where
  deriving DecidableEq, Repr

/-- Why a step has no meaning. -/
inductive Refusal where
  /-- Raised by `exec` for an instruction that has no meaning yet; no arm does so in this model. Safe. -/
  | notModelled (mnemonic : String)
  /-- Raised by the STEP event before any LOAD since RESET, a launch to which the spec gives no meaning
  (70_reset_and_hazards.md R264, 93_implementation_defined.md U16). Safe. -/
  | stepBeforeLoad
  /-- Raised by the LOAD event when a LOAD was already issued since RESET (so also after a STEP), which the spec gives
  no meaning (70_reset_and_hazards.md R264, 93_implementation_defined.md U16). Safe. -/
  | loadOutOfOrder
  deriving DecidableEq, Repr

/-- The answer of an instruction, of an event and of a step. -/
abbrev Result := Host.Outcome State Fault Refusal

/-- The state right after RESET (70_reset_and_hazards.md R260). PC and STK, to which the spec gives no value here, are 0
(DESIGN CHOICE, logs 5 and 6); the model's own fields are empty (logs 2, 3, 4). No memory byte is listed: an unlisted
byte reads as what RESET leaves there. -/
def State.reset : State where
  v := Vector.replicate 16 0
  pc := 0
  i := 0
  stk := Vector.replicate 16 0
  sp := 0
  fb := Vector.replicate 64 (Vector.replicate 32 false)
  dt := 0
  st := 0
  mem := []
  err := .noError
  wait := false
  inputs := .absent
  script := []
  freeIndex := 0
  loadIssued := false

end Sys2Proof.Machine
end

