-- ==== Sys2Proof/Machine/Memory.lean ====
section
/-!
DEFINITION. Memory (spec/20_memory.md): what a byte holds after RESET, the canonical form, and reading and writing
single bytes and runs of bytes at ascending addresses. The bounds test of R67 is the caller's (Machine/Operands.lean),
so that an instruction raises before it touches anything.
-/

namespace Sys2Proof.Machine

/-- What RESET leaves at an address, and so what an unlisted address reads as: GLYPH_ROM at 0x000..0x04F, zero
elsewhere (20_memory.md R62, 70_reset_and_hazards.md R260). -/
def Memory.resetByte (a : Nat) : Byte := Config.glyphRom.getD a 0

/-- The canonical form: addresses strictly rising and below 4096, no entry equal to what RESET leaves there. -/
abbrev Memory.wf (m : Memory) : Prop :=
  m.Pairwise (fun c d => c.1 < d.1) ∧ ∀ c ∈ m, c.1 < Config.memSize ∧ c.2 ≠ Memory.resetByte c.1

/-- `MEM[a]`. -/
def Memory.read : Memory → Nat → Byte
  | [], a => Memory.resetByte a
  | c :: m, a => if c.1 = a then c.2 else Memory.read m a

/-- The entry of an address set to a byte, in its place in the order. -/
def Memory.insert (a : Nat) (b : Byte) : Memory → Memory
  | [] => [(a, b)]
  | c :: m =>
    if a < c.1 then (a, b) :: c :: m
    else if a = c.1 then (a, b) :: m
    else c :: Memory.insert a b m

/-- The entry of an address taken out. -/
def Memory.erase (a : Nat) (m : Memory) : Memory := m.filter fun c => c.1 != a

/-- `MEM[a] <- b`, keeping the canonical form. -/
def Memory.write (m : Memory) (a : Nat) (b : Byte) : Memory :=
  if b = Memory.resetByte a then Memory.erase a m else Memory.insert a b m

/-- The n bytes at a, a + 1, ... -/
def Memory.readBytes (m : Memory) (a : Nat) : Nat → List Byte
  | 0 => []
  | n + 1 => m.read a :: Memory.readBytes m (a + 1) n

/-- Bytes written at a, a + 1, ... The addresses differ, so the order of the writes is not observable
(20_memory.md R69). -/
def Memory.writeBytes (m : Memory) (a : Nat) : List Byte → Memory
  | [] => m
  | b :: bs => (Memory.writeBytes m (a + 1) bs).write a b

end Sys2Proof.Machine
end

