-- ==== Sys2Proof/Machine/Ops.lean ====
section
/-!
DEFINITION. The named operations over the state that every meaning is written with: registers, PC, the call stack,
instruction fetch, and raising one of the four fatal errors.
-/

namespace Sys2Proof.Machine

/-! ### General registers (10_state.md R20) -/

/-- `V[x]`. -/
def State.readV (s : State) (x : Reg) : Byte := s.v[x]

/-- `V[x] <- b`. -/
def State.writeV (s : State) (x : Reg) (b : Byte) : State := { s with v := s.v.set x b }

/-- The flag first, the result second (42_alu.md R160): with x = 0xF the result stays. -/
def State.writeFlagged (s : State) (x : Reg) (flag result : Byte) : State := (s.writeV Reg.vf flag).writeV x result

/-- `V[0..x] <- b 0 .. b x`, the registers above x unchanged (46_index_memory.md R214). -/
def State.loadV (s : State) (x : Reg) (bytes : List Byte) : State :=
  { s with v := Vector.ofFn fun r : Fin 16 => if r ≤ x then bytes.getD r 0 else s.v[r] }

/-- `V[0], ..., V[x]` in this order (46_index_memory.md R213). -/
def State.listV (s : State) (x : Reg) : List Byte := s.v.toList.take (x.val + 1)

/-! ### Special registers -/

/-- `PC <- a`. -/
def State.setPc (s : State) (a : Word) : State := { s with pc := a }

/-- `I <- a` (10_state.md R26). -/
def State.setI (s : State) (a : Word) : State := { s with i := a }

/-- `DT <- b` (10_state.md R30). -/
def State.setDt (s : State) (b : Byte) : State := { s with dt := b }

/-- `ST <- b` (10_state.md R30). -/
def State.setSt (s : State) (b : Byte) : State := { s with st := b }

/-- `FB <- d` (10_state.md R29). -/
def State.setFb (s : State) (d : Display) : State := { s with fb := d }

/-- `MEM <- m`. -/
def State.setMem (s : State) (m : Memory) : State := { s with mem := m }

/-- `WAIT <- b` (10_state.md R32). -/
def State.setWait (s : State) (b : Bool) : State := { s with wait := b }

/-- The inputs of this STEP, sampled (10_state.md R39). -/
def State.sample (s : State) (input : StepInput) : State := { s with inputs := input }

/-- The inputs given up at the end of a STEP: the core "holds no copy of the key state between STEPs" (44_keypad.md
R193). -/
def State.release (s : State) : State := s.sample .absent

/-! ### Program counter (10_state.md R24, R128: sums modulo 65536) -/

/-- `PC <- (PC + 2) mod 65536`. -/
def State.advance (s : State) : State := s.setPc (s.pc + 2)

/-- A skip: PC + 4 when the condition holds, so that the next instruction is not executed, else PC + 2. -/
def State.skipIf (s : State) (c : Bool) : State := s.setPc (if c then s.pc + 4 else s.pc + 2)

/-! ### Call stack (10_state.md R28) -/

/-- `Push(a)`: none at full depth, where it raises StackOverflow. -/
def State.push (s : State) (a : Word) : Option State :=
  if h : s.sp.val < Config.stackDepth then
    some { s with stk := s.stk.set s.sp.val a h, sp := ⟨s.sp.val + 1, Nat.succ_lt_succ h⟩ }
  else none

/-- `Pop()`: none at zero depth, where it raises StackUnderflow; the popped entry keeps its value in STK. -/
def State.pop (s : State) : Option (Word × State) :=
  match s.sp with
  | ⟨0, _⟩ => none
  | ⟨d + 1, h⟩ => some (s.stk[d], { s with sp := ⟨d, Nat.lt_of_succ_lt h⟩ })

/-! ### Instruction fetch (20_memory.md R66) -/

/-- `op`: the bytes at PC and PC + 1, each address modulo 4096, joined big-endian. It never raises. -/
def State.fetch (s : State) : OpWord :=
  joinBigEndian (s.mem.read (s.pc.toNat % Config.memSize)) (s.mem.read ((s.pc.toNat + 1) % Config.memSize))

/-! ### Errors (60_exceptions.md R235) -/

/-- `raise E`: ERR takes the code and nothing else changes; PC stays at the instruction. There is no return from it
inside the machine (R237): the one way on is RESET, `State.onReset` in Machine/Events.lean. -/
def raise (e : ErrCode) (s : State) : Result := .next { s with err := e }

/-- The 3-bit code of ERR (60_exceptions.md R230). -/
def ErrCode.code : ErrCode → BitVec 3
  | .noError => 0
  | .decodeError => 1
  | .stackOverflow => 2
  | .stackUnderflow => 3
  | .memoryOutOfBounds => 4

end Sys2Proof.Machine
end

