-- ==== Sys2Proof/Machine/Operands.lean ====
section
/-!
DEFINITION. The operand forms of the machine, complete by spec/46_index_memory.md R215: immediates, jump targets, the
one data address I + k with its bounds test, the key a register selects, and the values of LD_F and LD_BCD.
-/

namespace Sys2Proof.Machine

/-- `zext_16(nnn)`: an absolute target or address (30_encoding.md R93). -/
def absolute (nnn : Imm12) : Word := nnn.setWidth 16

/-- `V[0] + zext_16(nnn)`, at most 0x10FE, not reduced (40_control_flow.md R123). -/
def State.offsetTarget (s : State) (nnn : Imm12) : Word := (s.readV 0).setWidth 16 + absolute nnn

/-- The effective address `ea = I + k`, an exact integer of the full 16-bit I (20_memory.md R67). -/
def State.dataAddr (s : State) (k : Nat) : Nat := s.i.toNat + k

/-- Whether the n addresses I, ..., I + n − 1 are all below 4096; an instruction that touches none always fits
(20_memory.md R67). -/
def State.accessFits (s : State) (n : Nat) : Bool := n == 0 || decide (s.dataAddr (n - 1) < Config.memSize)

/-- The n bytes at I. -/
def State.readData (s : State) (n : Nat) : List Byte := s.mem.readBytes (s.dataAddr 0) n

/-- Bytes stored at I, I + 1, ... -/
def State.writeData (s : State) (bytes : List Byte) : State := s.setMem (s.mem.writeBytes (s.dataAddr 0) bytes)

/-- The key number of a register value: its low four bits (44_keypad.md R190). -/
def keyNumber (a : Byte) : Nibble := a.extractLsb' 0 4

/-- `key_down[k]` for the key a register value selects. -/
def State.keyHeld (s : State) (a : Byte) : Bool := s.inputs.keyDown.getLsbD (keyNumber a).toNat

/-- `5 * zext_16(a)`: the glyph of digit a (46_index_memory.md R211). -/
def glyphAddr (a : Byte) : Word := 5 * a.setWidth 16

/-- The decimal digits, hundreds first (46_index_memory.md R212). -/
def bcdDigits (a : Byte) : List Byte :=
  [BitVec.ofNat 8 (a.toNat / 100), BitVec.ofNat 8 (a.toNat / 10 % 10), BitVec.ofNat 8 (a.toNat % 10)]

end Sys2Proof.Machine
end

