-- ==== Sys2Proof/Machine/Alu.lean ====
section
/-!
DEFINITION. Register-register ALU instructions (spec/42_alu.md). Results are modulo 256 (R170); the five flag-writing
instructions read both operands first, write VF, then V[x] (R160).
-/

namespace Sys2Proof.Machine

/-- LD_REG (R161). -/
def execLdReg (x y : Reg) (s : State) : Result := .next (s.writeV x (s.readV y)).advance

/-- OR (R162): VF is not written. -/
def execOr (x y : Reg) (s : State) : Result := .next (s.writeV x (s.readV x ||| s.readV y)).advance

/-- AND (R163): VF is not written. -/
def execAnd (x y : Reg) (s : State) : Result := .next (s.writeV x (s.readV x &&& s.readV y)).advance

/-- XOR (R164): VF is not written. -/
def execXor (x y : Reg) (s : State) : Result := .next (s.writeV x (s.readV x ^^^ s.readV y)).advance

/-- ADD_REG (R165). -/
def execAddReg (x y : Reg) (s : State) : Result :=
  .next (s.writeFlagged x (carryFlag (s.readV x) (s.readV y)) (s.readV x + s.readV y)).advance

/-- SUB (R166): V[x] − V[y]. -/
def execSub (x y : Reg) (s : State) : Result :=
  .next (s.writeFlagged x (greaterFlag (s.readV x) (s.readV y)) (s.readV x - s.readV y)).advance

/-- SHR (R167): V[x] by one, zero filled; the y field is not used. -/
def execShr (x _y : Reg) (s : State) : Result :=
  .next (s.writeFlagged x (lowBitFlag (s.readV x)) (s.readV x >>> 1)).advance

/-- SUBN (R168): V[y] − V[x]. -/
def execSubn (x y : Reg) (s : State) : Result :=
  .next (s.writeFlagged x (greaterFlag (s.readV y) (s.readV x)) (s.readV y - s.readV x)).advance

/-- SHL (R169): V[x] by one, zero filled; the y field is not used. -/
def execShl (x _y : Reg) (s : State) : Result :=
  .next (s.writeFlagged x (highBitFlag (s.readV x)) (s.readV x <<< 1)).advance

end Sys2Proof.Machine
end

