-- ==== Sys2Proof/Machine/ControlFlow.lean ====
section
/-!
DEFINITION. Control transfer instructions (spec/40_control_flow.md): RET, JP, CALL, JP_V0 and the four register skips.
-/

namespace Sys2Proof.Machine

/-- RET (R120): to the instruction after the CALL whose address is popped. -/
def execRet (s : State) : Result :=
  match s.pop with
  | none => raise .stackUnderflow s
  | some (a, s') => .next (s'.setPc (a + 2))

/-- JP (R121). -/
def execJp (nnn : Imm12) (s : State) : Result := .next (s.setPc (absolute nnn))

/-- CALL (R122): the address of the CALL itself is pushed. -/
def execCall (nnn : Imm12) (s : State) : Result :=
  match s.push s.pc with
  | none => raise .stackOverflow s
  | some s' => .next (s'.setPc (absolute nnn))

/-- JP_V0 (R123). -/
def execJpV0 (nnn : Imm12) (s : State) : Result := .next (s.setPc (s.offsetTarget nnn))

/-- SE_IMM (R124). -/
def execSeImm (x : Reg) (kk : Byte) (s : State) : Result := .next (s.skipIf (s.readV x == kk))

/-- SNE_IMM (R125). -/
def execSneImm (x : Reg) (kk : Byte) (s : State) : Result := .next (s.skipIf (s.readV x != kk))

/-- SE_REG (R126); the low nibble is ignored (30_encoding.md R96). -/
def execSeReg (x y : Reg) (_u : Nibble) (s : State) : Result := .next (s.skipIf (s.readV x == s.readV y))

/-- SNE_REG (R127); the low nibble is ignored (30_encoding.md R96). -/
def execSneReg (x y : Reg) (_u : Nibble) (s : State) : Result := .next (s.skipIf (s.readV x != s.readV y))

end Sys2Proof.Machine
end

