-- ==== Sys2Proof/Machine/Screen.lean ====
section
/-!
DEFINITION. Operations over the Display Buffer (spec/10_state.md R29, 43_display.md R181): a pixel, the empty buffer,
and drawing a sprite by XOR with wrap on both axes, pixel by pixel as the spec's loops do, carrying the collision
found so far.
-/

namespace Sys2Proof.Machine

/-- `FB[px][py]`. -/
def Display.pixel (d : Display) (px : Fin 64) (py : Fin 32) : Bool := d[px][py]

/-- `FB[px][py] <- b`. -/
def Display.setPixel (d : Display) (px : Fin 64) (py : Fin 32) (b : Bool) : Display := d.set px (d[px].set py b)

/-- Every pixel off. -/
def Display.empty : Display := Vector.replicate 64 (Vector.replicate 32 false)

/-- A column number reduced modulo 64. -/
def column (n : Nat) : Fin 64 := Fin.ofNat 64 n

/-- A row number reduced modulo 32. -/
def row (n : Nat) : Fin 32 := Fin.ofNat 32 n

/-- A buffer being drawn to, and whether a pixel has gone from on to off. -/
abbrev Drawing := Display × Bool

/-- One sprite bit XORed into one pixel; a 1 bit on a pixel that was on is a collision. -/
def drawPixel (px : Fin 64) (py : Fin 32) (p : Bool) (g : Drawing) : Drawing :=
  (g.1.setPixel px py (g.1.pixel px py ^^ p), g.2 || (g.1.pixel px py && p))

/-- The bits `bit`, ..., `bit + n − 1` of one sprite row, bit 0 being the most significant, the leftmost. -/
def drawBits (ox oy : Nat) (sprite : Byte) (bit : Nat) : Nat → Drawing → Drawing
  | 0, g => g
  | n + 1, g => drawBits ox oy sprite (bit + 1) n (drawPixel (column (ox + bit)) (row oy) (sprite.getLsbD (7 - bit)) g)

/-- The sprite rows one below the other, the first at row oy. -/
def drawRows (ox oy : Nat) : List Byte → Drawing → Drawing
  | [], g => g
  | sprite :: rest, g => drawRows ox (oy + 1) rest (drawBits ox oy sprite 0 8 g)

end Sys2Proof.Machine
end

