-- ==== Sys2Proof/Machine/DisplayInstrs.lean ====
section
/-!
DEFINITION. Display instructions (spec/43_display.md): CLS and DRW.
-/

namespace Sys2Proof.Machine

/-- CLS (R180). -/
def execCls (s : State) : Result := .next (s.setFb Display.empty).advance

/-- What DRW leaves in the buffer, and whether it collided: n rows of the sprite at I, the origin being
(V[x] mod 64, V[y] mod 32) (R181). -/
def State.drawn (s : State) (x y : Reg) (n : Nibble) : Drawing :=
  drawRows ((s.readV x).toNat % 64) ((s.readV y).toNat % 32) (s.readData n.toNat) (s.fb, false)

/-- DRW (R181): raises before it changes anything when a sprite byte lies at 4096 or above; otherwise VF is the
collision. -/
def execDrw (x y : Reg) (n : Nibble) (s : State) : Result :=
  if s.accessFits n.toNat then
    .next ((s.setFb (s.drawn x y n).1).writeV Reg.vf (collisionFlag (s.drawn x y n).2)).advance
  else raise .memoryOutOfBounds s

end Sys2Proof.Machine
end

