-- ==== Sys2Proof/Machine/IndexMemory.lean ====
section
/-!
DEFINITION. Address-register and memory instructions (spec/46_index_memory.md): ADD_I, LD_F, LD_BCD, ST_REGS, LD_REGS.
I is never changed by a load or a store; the bounds test comes before every access (20_memory.md R67).
-/

namespace Sys2Proof.Machine

/-- ADD_I (R210): modulo 65536, no flag. -/
def execAddI (x : Reg) (s : State) : Result := .next (s.setI (s.i + (s.readV x).setWidth 16)).advance

/-- LD_F (R211): five times all of V[x], no mask. -/
def execLdF (x : Reg) (s : State) : Result := .next (s.setI (glyphAddr (s.readV x))).advance

/-- LD_BCD (R212). -/
def execLdBcd (x : Reg) (s : State) : Result :=
  if s.accessFits 3 then .next (s.writeData (bcdDigits (s.readV x))).advance
  else raise .memoryOutOfBounds s

/-- ST_REGS (R213). -/
def execStRegs (x : Reg) (s : State) : Result :=
  if s.accessFits (x.val + 1) then .next (s.writeData (s.listV x)).advance
  else raise .memoryOutOfBounds s

/-- LD_REGS (R214). -/
def execLdRegs (x : Reg) (s : State) : Result :=
  if s.accessFits (x.val + 1) then .next (s.loadV x (s.readData (x.val + 1))).advance
  else raise .memoryOutOfBounds s

end Sys2Proof.Machine
end

