-- ==== Sys2Proof/Machine/Keypad.lean ====
section
/-!
DEFINITION. Keypad instructions (spec/44_keypad.md): SKP, SKNP, LD_VX_K, over the inputs of this STEP.
-/

namespace Sys2Proof.Machine

/-- SKP (R190). -/
def execSkp (x : Reg) (s : State) : Result := .next (s.skipIf (s.keyHeld (s.readV x)))

/-- SKNP (R191). -/
def execSknp (x : Reg) (s : State) : Result := .next (s.skipIf (!s.keyHeld (s.readV x)))

/-- The state after LD_VX_K: it waits while there is no key event, and loads the key's number when there is one. -/
def State.afterKeyWait (s : State) (x : Reg) : Option Nibble → State
  | none => s.setWait true
  | some k => ((s.writeV x (k.setWidth 8)).setWait false).advance

/-- LD_VX_K (R192). -/
def execLdVxK (x : Reg) (s : State) : Result := .next (s.afterKeyWait x s.inputs.keyEvent)

end Sys2Proof.Machine
end

