-- ==== Sys2Proof/Machine/LoadImmediate.lean ====
section
/-!
DEFINITION. Immediate loads and the random byte (spec/41_load_immediate.md): LD_IMM, ADD_IMM, LD_I, RND.
-/

namespace Sys2Proof.Machine

/-- LD_IMM (R140). -/
def execLdImm (x : Reg) (kk : Byte) (s : State) : Result := .next (s.writeV x kk).advance

/-- ADD_IMM (R141): modulo 256, no flag. -/
def execAddImm (x : Reg) (kk : Byte) (s : State) : Result := .next (s.writeV x (s.readV x + kk)).advance

/-- LD_I (R142). -/
def execLdI (nnn : Imm12) (s : State) : Result := .next (s.setI (absolute nnn)).advance

/-- RND (R143): the random byte of this STEP masked by kk. -/
def execRnd (x : Reg) (kk : Byte) (s : State) : Result := .next (s.writeV x (s.inputs.randByte &&& kk)).advance

end Sys2Proof.Machine
end

