-- ==== Sys2Proof/Machine/Timers.lean ====
section
/-!
DEFINITION. Timer access instructions (spec/45_timers.md): LD_VX_DT, LD_DT_VX, LD_ST_VX. The countdown is the TICK
event, in Machine/Events.lean.
-/

namespace Sys2Proof.Machine

/-- LD_VX_DT (R200). -/
def execLdVxDt (x : Reg) (s : State) : Result := .next (s.writeV x s.dt).advance

/-- LD_DT_VX (R201). -/
def execLdDtVx (x : Reg) (s : State) : Result := .next (s.setDt (s.readV x)).advance

/-- LD_ST_VX (R202). -/
def execLdStVx (x : Reg) (s : State) : Result := .next (s.setSt (s.readV x)).advance

end Sys2Proof.Machine
end

