-- ==== Sys2Proof/Machine/Events.lean ====
section
/-!
DEFINITION. The four events by which the core changes state (spec/10_state.md R36): RESET, LOAD, STEP, TICK, and the
choice of the next one from the host's script. The launch order of 70_reset_and_hazards.md R264 is checked here: what
lies outside it is refused by name.
-/

namespace Sys2Proof.Machine

/-- One timer at a TICK: one less, floored at 0 (60_exceptions.md R243). -/
def countDown (b : Byte) : Byte := if b = 0 then 0 else b - 1

/-- TICK (60_exceptions.md R243): DT and ST count down independently, in every state. -/
def State.onTick (s : State) : State := (s.setDt (countDown s.dt)).setSt (countDown s.st)

/-- RESET (70_reset_and_hazards.md R260): discards the whole state. What is not the core's stays: the host's pending
events and the count of free inputs (log 12). -/
def State.onReset (s : State) : State := { State.reset with script := s.script, freeIndex := s.freeIndex }

/-- What a successful LOAD leaves: the image at 0x200 and PC at its first byte (70_reset_and_hazards.md R262). -/
def State.loaded (s : State) (image : List Byte) : State :=
  (s.setMem (s.mem.writeBytes Config.progBase image)).setPc (BitVec.ofNat 16 Config.progBase)

/-- LOAD (70_reset_and_hazards.md R262): an image longer than 3584 bytes raises MemoryOutOfBounds and nothing is
written. A LOAD is issued once after a RESET (R264). -/
def State.onLoad (s : State) (image : List Byte) : Result :=
  if s.loadIssued then .refused .loadOutOfOrder
  else if image.length > Config.progMax then raise .memoryOutOfBounds { s with loadIssued := true }
  else .next ({ s with loadIssued := true }.loaded image)

/-- The end of a STEP that executed an instruction: its inputs are given up (44_keypad.md R193). -/
def endStep : Result → Result
  | .next s => .next s.release
  | .fault f => .fault f
  | .refused r => .refused r

/-- STEP (10_state.md R41): in a halted core nothing; else fetch, decode, and execute or raise DecodeError. The inputs
are sampled for the instruction and given up behind it. -/
def State.onStep (s : State) (input : StepInput) : Result :=
  if s.err ≠ .noError then .next s
  else if s.loadIssued then
    match decodeWord s.fetch with
    | none => raise .decodeError s
    | some i => endStep (exec i (s.sample input))
  else .refused .stepBeforeLoad

/-- An event performed. -/
def State.perform (s : State) : HostEvent → Result
  | .reset => .next s.onReset
  | .load image => s.onLoad image
  | .step input => s.onStep input
  | .tick => .next s.onTick

/-- The inputs of a STEP that no script gives: free values (log 3). -/
def freeInput (n : Nat) : StepInput := ⟨Config.freeKeyDown n, Config.freeKeyEvent n, Config.freeRandByte n⟩

/-- The next event and the state without it: the script's first, or, when the script is empty, a STEP with free inputs
(log 2). -/
def State.nextEvent (s : State) : HostEvent × State :=
  match s.script with
  | [] => (.step (freeInput s.freeIndex), { s with freeIndex := s.freeIndex + 1 })
  | e :: rest => (e, { s with script := rest })

/-- Whether an event is a STEP. -/
def HostEvent.isStep : HostEvent → Bool
  | .step _ => true
  | .reset | .load _ | .tick => false

/-- A word placed where the next STEP fetches it, and that STEP made the next event: the script's events before its
first STEP are dropped, ERR is 0, and before a LOAD this stands for a LOAD: PC at 0x200 (log 11). -/
def State.placeWord (s : State) (op : OpWord) : State :=
  let s := if s.loadIssued then s else { s with loadIssued := true, pc := BitVec.ofNat 16 Config.progBase }
  { s with
    mem := (s.mem.write (s.pc.toNat % Config.memSize) (op.extractLsb' 8 8)).write
      ((s.pc.toNat + 1) % Config.memSize) (op.extractLsb' 0 8)
    err := .noError
    script := s.script.dropWhile fun e => !e.isStep }

end Sys2Proof.Machine
end

