-- ==== Sys2Proof/Machine/Outputs.lean ====
section
/-!
DEFINITION. What the host reads between events (spec/10_state.md R38): functions of the current state, and the answer
of a STEP or a LOAD, which is read from the state it leaves (90_conflicts.md C6).
-/

namespace Sys2Proof.Machine

/-- `pc` = PC. -/
def State.pcOut (s : State) : Word := s.pc

/-- `err` = ERR, as its 3-bit code. -/
def State.errOut (s : State) : BitVec 3 := s.err.code

/-- `waiting` = WAIT. -/
def State.waiting (s : State) : Bool := s.wait

/-- `sound_active` = (ST > 0) (10_state.md R30, 60_exceptions.md R245). -/
def State.soundActive (s : State) : Bool := decide (s.st.toNat > 0)

/-- `fb`, the snapshot, indexed (px, py) (60_exceptions.md R246). -/
def State.snapshot (s : State) (px : Fin 64) (py : Fin 32) : Bool := s.fb.pixel px py

/-- What a STEP or a LOAD that leaves this state returned to the host: Ok, or Err(code) (10_state.md R41). -/
def State.answer (s : State) : Except (BitVec 3) Unit :=
  if s.err = .noError then .ok () else .error s.err.code

end Sys2Proof.Machine
end

