-- ==== Sys2Proof/Machine/Step.lean ====
section
/-!
DEFINITION. One step of the machine: the next event of the host, performed (spec/10_state.md R36, R40); and the host's
way to place one instruction where the next STEP fetches it.
-/

namespace Sys2Proof.Machine

/-- The next event, performed. -/
def step (s : State) : Host.Outcome State Fault Refusal := s.nextEvent.2.perform s.nextEvent.1

/-- s with the table word stored where the next STEP fetches it, that STEP being the next event (log 11). -/
def State.withFetchWord (s : State) (nbits w : Nat) : State := s.placeWord (tableWord nbits w)

end Sys2Proof.Machine
end

