-- ==== Sys2Proof/Safety.lean ====
section
/-!
DEFINITION. The terms claims are stated in: the invariants of the machine, what each instruction may write, and what a
sprite covers. They restate the spec's rules in their own words and are not used by the machine.
-/

namespace Sys2Proof.Machine

/-! ### Invariants -/

/-- WAIT = 1 only while the core sits at an LD_VX_K that it can go on executing (spec/10_state.md R32: the next STEP
fetches at the unchanged PC and finds the same instruction). -/
def State.waitsAtKeyWait (s : State) : Prop :=
  s.wait = true → s.err = .noError ∧ s.loadIssued = true ∧ ∃ x, decodeWord s.fetch = some (.ldVxK x)

/-- What the spec states of the state after RESET (spec/70_reset_and_hazards.md R260); PC and STK are left open. -/
def State.asResetLeaves (t : State) : Prop :=
  (∀ a, a < 80 → t.mem.read a = Config.glyphRom.getD a 0) ∧ (∀ a, 80 ≤ a → a < 4096 → t.mem.read a = 0) ∧
    (∀ x : Reg, t.v[x] = 0) ∧ t.i = 0 ∧ t.sp = 0 ∧ t.dt = 0 ∧ t.st = 0 ∧
    (∀ (px : Fin 64) (py : Fin 32), t.fb[px][py] = false) ∧ t.err = .noError ∧ t.wait = false

/-- Until a LOAD the core has the values RESET leaves (spec/70_reset_and_hazards.md R260, R264: nothing but TICK between
RESET and LOAD, and the timers stay 0), and beside them those the model chose: no memory byte listed (log 14), PC 0
(log 5), every stack entry 0 (log 6). -/
def State.launchesFromReset (s : State) : Prop :=
  s.loadIssued = false → s.asResetLeaves ∧ s.mem = [] ∧ s.pc = 0 ∧ ∀ k : Fin 16, s.stk[k] = 0

end Sys2Proof.Machine

namespace Sys2Proof

/-! ### What an instruction may write (spec/10_state.md R21, R22) -/

/-- The six instructions that write VF implicitly (R21). -/
def Instr.setsFlag : Instr → Bool
  | .addReg _ _ | .sub _ _ | .shr _ _ | .subn _ _ | .shl _ _ | .drw _ _ _ => true
  | .cls | .ret | .jp _ | .call _ | .seImm _ _ | .sneImm _ _ | .seReg _ _ _ | .ldImm _ _ | .addImm _ _ => false
  | .ldReg _ _ | .orReg _ _ | .andReg _ _ | .xorReg _ _ | .sneReg _ _ _ | .ldI _ | .jpV0 _ | .rnd _ _ => false
  | .skp _ | .sknp _ | .ldVxDt _ | .ldVxK _ | .ldDtVx _ | .ldStVx _ | .addI _ | .ldF _ | .ldBcd _ => false
  | .stRegs _ | .ldRegs _ => false

/-- The registers an instruction names as its destination: V[x], or V[0..x] of LD_REGS (R22). -/
def Instr.destination : Instr → Reg → Bool
  | .ldImm x _, r | .addImm x _, r | .ldReg x _, r | .orReg x _, r | .andReg x _, r | .xorReg x _, r => r == x
  | .addReg x _, r | .sub x _, r | .shr x _, r | .subn x _, r | .shl x _, r | .rnd x _, r => r == x
  | .ldVxDt x, r | .ldVxK x, r => r == x
  | .ldRegs x, r => decide (r ≤ x)
  | .cls, _ | .ret, _ | .jp _, _ | .call _, _ | .seImm _ _, _ | .sneImm _ _, _ | .seReg _ _ _, _ => false
  | .sneReg _ _ _, _ | .ldI _, _ | .jpV0 _, _ | .drw _ _ _, _ | .skp _, _ | .sknp _, _ | .ldDtVx _, _ => false
  | .ldStVx _, _ | .addI _, _ | .ldF _, _ | .ldBcd _, _ | .stRegs _, _ => false

/-- How many bytes an instruction stores at I, I + 1, ... (spec/20_memory.md R69, R72). -/
def Instr.storeCount : Instr → Nat
  | .ldBcd _ => 3
  | .stRegs x => x.val + 1
  | .cls | .ret | .jp _ | .call _ | .seImm _ _ | .sneImm _ _ | .seReg _ _ _ | .ldImm _ _ | .addImm _ _ => 0
  | .ldReg _ _ | .orReg _ _ | .andReg _ _ | .xorReg _ _ | .addReg _ _ | .sub _ _ | .shr _ _ | .subn _ _ => 0
  | .shl _ _ | .sneReg _ _ _ | .ldI _ | .jpV0 _ | .rnd _ _ | .drw _ _ _ | .skp _ | .sknp _ | .ldVxDt _ => 0
  | .ldVxK _ | .ldDtVx _ | .ldStVx _ | .addI _ | .ldF _ | .ldRegs _ => 0

/-- The error an instruction raises in a state, by the table of spec/60_exceptions.md R230 and R238: CALL at full
depth, RET at zero depth, and the four that access Memory when their largest address is 4096 or above. -/
def Instr.raised (i : Instr) (s : Machine.State) : Option Machine.ErrCode :=
  match i with
  | .call _ => if s.sp.val = 16 then some .stackOverflow else none
  | .ret => if s.sp.val = 0 then some .stackUnderflow else none
  | .drw _ _ n => if 0 < n.toNat ∧ s.i.toNat + (n.toNat - 1) ≥ 4096 then some .memoryOutOfBounds else none
  | .ldBcd _ => if s.i.toNat + 2 ≥ 4096 then some .memoryOutOfBounds else none
  | .stRegs x => if s.i.toNat + x.val ≥ 4096 then some .memoryOutOfBounds else none
  | .ldRegs x => if s.i.toNat + x.val ≥ 4096 then some .memoryOutOfBounds else none
  | .cls | .jp _ | .seImm _ _ | .sneImm _ _ | .seReg _ _ _ | .ldImm _ _ | .addImm _ _ | .ldReg _ _ => none
  | .orReg _ _ | .andReg _ _ | .xorReg _ _ | .addReg _ _ | .sub _ _ | .shr _ _ | .subn _ _ | .shl _ _ => none
  | .sneReg _ _ _ | .ldI _ | .jpV0 _ | .rnd _ _ | .skp _ | .sknp _ | .ldVxDt _ | .ldVxK _ => none
  | .ldDtVx _ | .ldStVx _ | .addI _ | .ldF _ => none

/-- The instructions that read an input of the STEP (spec/10_state.md R39). -/
def Instr.readsInput : Instr → Bool
  | .skp _ | .sknp _ | .ldVxK _ | .rnd _ _ => true
  | .cls | .ret | .jp _ | .call _ | .seImm _ _ | .sneImm _ _ | .seReg _ _ _ | .ldImm _ _ | .addImm _ _ => false
  | .ldReg _ _ | .orReg _ _ | .andReg _ _ | .xorReg _ _ | .addReg _ _ | .sub _ _ | .shr _ _ | .subn _ _ => false
  | .shl _ _ | .sneReg _ _ _ | .ldI _ | .jpV0 _ | .drw _ _ _ | .ldVxDt _ => false
  | .ldDtVx _ | .ldStVx _ | .addI _ | .ldF _ | .ldBcd _ | .stRegs _ | .ldRegs _ => false

end Sys2Proof

namespace Sys2Proof.Machine

/-! ### What a sprite covers (spec/43_display.md R181) -/

/-- The bit of DRW's sprite that lands on a pixel: the pixel lies c columns right of and r rows below the origin, modulo
the screen, and bit c of row r, counted from the most significant, is 1. -/
def State.spriteBit (s : State) (x y : Reg) (n : Nibble) (px : Fin 64) (py : Fin 32) : Bool :=
  let c := (px.val + 64 - s.v[x].toNat % 64) % 64
  let r := (py.val + 32 - s.v[y].toNat % 32) % 32
  decide (c < 8) && decide (r < n.toNat) && (s.mem.read (s.i.toNat + r)).getLsbD (7 - c)

/-- A pixel that is on and that a 1 bit of the sprite covers. -/
def State.collides (s : State) (x y : Reg) (n : Nibble) : Bool :=
  decide (∃ px : Fin 64, ∃ py : Fin 32, s.fb[px][py] = true ∧ s.spriteBit x y n px py = true)

end Sys2Proof.Machine
end

