-- ==== Sys2Proof/Certificates/Slice0/Obligations.lean ====
section
/-!
DEFINITION. The statements about the CHIP-8 core, taken from the spec's numbered rules. Each is a proposition; none is
proved here. `exec` is the meaning of one instruction, `step` performs the host's next event.
-/

open Sys2Proof Sys2Proof.Machine

/-! ### Encoding (spec/30_encoding.md) -/

/-- Decode and encode agree on every instruction with every operand: the word decodes to the instruction it encodes,
and so do the two bytes of the word, whatever follows them (R90, R92, R97). -/
def Obligations.DecodeOfEncodeIsTheInstruction : Prop :=
  ∀ (i : Instr) (rest : List Byte),
    decodeWord (encode i) = some i ∧ decode (wordBytes (encode i) ++ rest) = .ok (i, rest)

/-- Encoding what a word decodes to gives the word back, so a word stands for at most one instruction and no bit is
dropped. For the bits that decoding does not examine this holds because the model keeps them as an operand (log 13,
the model's choice): 30_encoding.md R94 decodes SHR(x), SHL(x), SE_REG(x, y) and SNE_REG(x, y) without them. That
5xyN and 9xyN decode for every N is the spec's decision D10 (log 8). -/
def Obligations.EncodeOfDecodeIsTheWord : Prop :=
  ∀ (op : OpWord) (i : Instr), decodeWord op = some i → encode i = op

/-- The words that do not decode are exactly the listed illegal ones (R98). -/
def Obligations.IllegalWordsAreExactlyTheListedOnes : Prop :=
  ∀ op : OpWord, decodeWord op = none ↔
    (op.toNat / 4096 = 0x0 ∧ op.toNat ≠ 0x00E0 ∧ op.toNat ≠ 0x00EE) ∨
    (op.toNat / 4096 = 0x8 ∧ (op.toNat % 16 = 0xF ∨ (0x8 ≤ op.toNat % 16 ∧ op.toNat % 16 ≤ 0xD))) ∨
    (op.toNat / 4096 = 0xE ∧ op.toNat % 256 ≠ 0x9E ∧ op.toNat % 256 ≠ 0xA1) ∨
    (op.toNat / 4096 = 0xF ∧ op.toNat % 256 ∉ [0x07, 0x0A, 0x15, 0x18, 0x1E, 0x29, 0x33, 0x55, 0x65])

/-- The (mask, match) pairs of the opcode table are pairwise disjoint (R95). -/
def Obligations.NoWordMatchesTwoRows : Prop :=
  ∀ (op : OpWord) (r r' : OpcodeRow), r ∈ opcodeRows → r' ∈ opcodeRows →
    r.covers op = true → r'.covers op = true → r = r'

/-- The decoder is the opcode table: a word that decodes matches the row of its instruction's mnemonic, and a word that
matches a row decodes to an instruction of that row (R94, R97). -/
def Obligations.DecodingFollowsTheOpcodeTable : Prop :=
  ∀ op : OpWord,
    (∀ i, decodeWord op = some i → ∃ r ∈ opcodeRows, r.mnemonic = i.mnemonic ∧ r.covers op = true) ∧
    (∀ r ∈ opcodeRows, r.covers op = true → ∃ i, decodeWord op = some i ∧ i.mnemonic = r.mnemonic)

/-- One word of each format, written out bit by bit from the format's fields (R91, R97), decodes to its instruction. -/
def Obligations.SampleWordsDecode : Prop :=
  decodeWord 0b0000000011100000#16 = some .cls ∧
  decodeWord 0b0010001000010000#16 = some (.call 0x210) ∧
  decodeWord 0b0111000111111111#16 = some (.addImm 1 0xFF) ∧
  decodeWord 0b1000000100100100#16 = some (.addReg 1 2) ∧
  decodeWord 0b1101000000000101#16 = some (.drw 0 0 5) ∧
  decodeWord 0b1110010110011110#16 = some (.skp 5) ∧
  decodeWord 0b1111001001100101#16 = some (.ldRegs 2)

/-! ### A step (spec/10_state.md, 20_memory.md) -/

/-- STEP (10_state.md R41, 20_memory.md R66): with the core loaded and not halted, the bytes at PC mod 4096 and
(PC + 1) mod 4096, joined big-endian, are decoded, and the step is the instruction's execution on the state with the
inputs of this STEP sampled and the event consumed; behind it the inputs are given up (44_keypad.md R193).
The fetch at any PC, odd or beyond 4095, is the spec's decision D6 (log 8); the field of the inputs and what it holds
between STEPs is the model's own (log 4). -/
def Obligations.StepRunsTheDecodedInstruction : Prop :=
  ∀ (s : State) (rest : List HostEvent) (input : StepInput) (i : Instr),
    s.err = .noError → s.loadIssued = true → s.script = .step input :: rest →
    decode [s.mem.read (s.pc.toNat % 4096), s.mem.read ((s.pc.toNat + 1) % 4096)] = .ok (i, []) →
    ∃ t, exec i { s with script := rest, inputs := input } = .next t ∧ step s = .next { t with inputs := .absent }

/-- With no event left in the script the step is a STEP whose inputs are free values: the model's choice (logs 2
and 3), the free inputs being those of 10_state.md R39; behind it they are given up (log 4). -/
def Obligations.StepWithoutScriptTakesFreeInputs : Prop :=
  ∀ (s : State) (i : Instr),
    s.err = .noError → s.loadIssued = true → s.script = [] →
    decode [s.mem.read (s.pc.toNat % 4096), s.mem.read ((s.pc.toNat + 1) % 4096)] = .ok (i, []) →
    ∃ t, exec i { s with
        freeIndex := s.freeIndex + 1
        inputs := ⟨Config.freeKeyDown s.freeIndex, Config.freeKeyEvent s.freeIndex, Config.freeRandByte s.freeIndex⟩ }
          = .next t ∧
      step s = .next { t with inputs := .absent }

/-- A word that matches no row makes the STEP raise DecodeError before any part of it is executed: ERR is 1 and nothing
else of the core changes (60_exceptions.md R231, R235).
The code and that nothing else changes are the spec's decisions D2 and D3 (logs 1 and 8). -/
def Obligations.UnmatchedWordRaisesDecodeError : Prop :=
  ∀ (s : State) (rest : List HostEvent) (input : StepInput),
    s.err = .noError → s.loadIssued = true → s.script = .step input :: rest →
    decodeWord (s.mem.read (s.pc.toNat % 4096) ++ s.mem.read ((s.pc.toNat + 1) % 4096)) = none →
    step s = .next { s with script := rest, err := .decodeError }

/-- The inputs of a STEP reach only the instructions that read them (10_state.md R39): every other instruction does the
same whatever they are. And no step leaves a copy of them behind (44_keypad.md R193: no copy of the key state between
STEPs): the field holds the one constant `StepInput.absent` at reset, and every step keeps that.
That a key event is dropped is the spec's decision D13 (log 8); the field and its constant are the model's own
(log 4). -/
def Obligations.OtherInstructionsIgnoreTheInputs : Prop :=
  (∀ (i : Instr) (s t : State) (a b : StepInput), i.readsInput = false →
    exec i { s with inputs := a } = .next t → exec i { s with inputs := b } = .next { t with inputs := b }) ∧
  State.reset.inputs = .absent ∧
  ∀ s t : State, s.inputs = .absent → step s = .next t → t.inputs = .absent

/-- Self-modifying code (20_memory.md R73): when ST_REGS stores over the two bytes that the following instruction
occupies, the next fetch reads V[0] and V[1].
R73 is the spec's own derivation; the wrapped fetch is its decision D6 (log 8). -/
def Obligations.StoreIsSeenByTheNextFetch : Prop :=
  ∀ (s t : State) (x : Reg), 1 ≤ x.val → s.i.toNat + x.val < 4096 → (s.pc + 2).toNat % 4096 = s.i.toNat →
    exec (.stRegs x) s = .next t → t.fetch = s.v[(0 : Fin 16)] ++ s.v[(1 : Fin 16)]

/-! ### Reset, load, tick, halt (spec/70_reset_and_hazards.md, 60_exceptions.md) -/

/-- RESET (R260), in any state: glyphs at 0x000..0x04F, zero elsewhere, V, I, SP, DT, ST zero, display off, ERR and
WAIT 0. The state the machine starts in is such a state. PC and STK are left open.
Display, ERR and WAIT rest on the spec's decisions D17, D2 and D14 (log 8). -/
def Obligations.ResetLeavesTheStatedValues : Prop :=
  State.reset.asResetLeaves ∧
    ∀ (s : State) (rest : List HostEvent), s.script = .reset :: rest →
      ∃ t, step s = .next t ∧ t.asResetLeaves ∧ t.script = rest ∧ t.loadIssued = false

/-- LOAD (R262): an image of at most 3584 bytes is copied in order to 0x200 and up, PC becomes 0x0200, nothing else
changes; a longer one raises MemoryOutOfBounds with nothing written and PC not set.
The clause on a longer image is the spec's decision D19 (log 8); one LOAD after a RESET, its decision D18 (log 9). -/
def Obligations.LoadCopiesTheImage : Prop :=
  ∀ (s : State) (image : List Byte) (rest : List HostEvent),
    s.loadIssued = false → s.script = .load image :: rest →
    (image.length ≤ 3584 → ∃ m : Memory,
      step s = .next { s with script := rest, loadIssued := true, mem := m, pc := 0x0200 } ∧
      (∀ j, j < image.length → m.read (0x200 + j) = image.getD j 0) ∧
      (∀ a, (∀ j, j < image.length → a ≠ 0x200 + j) → m.read a = s.mem.read a)) ∧
    (image.length > 3584 →
      step s = .next { s with script := rest, loadIssued := true, err := .memoryOutOfBounds })

/-- The state at the first instruction (R263): after RESET and a LOAD of at most 3584 bytes, from any state.
Display, ERR and WAIT rest on the spec's decisions D17, D2 and D14 (log 8), RESET before LOAD on D18 (log 9); that the
events come from a script, whose rest is kept, is the model's choice (logs 2 and 12). -/
def Obligations.LaunchStateAfterResetAndLoad : Prop :=
  ∀ (s : State) (image : List Byte) (rest : List HostEvent), image.length ≤ 3584 →
    s.script = .reset :: .load image :: rest →
    ∃ t, Sys2Proof.core.run 2 s = .next t ∧ t.pc = 0x0200 ∧ (∀ x : Reg, t.v[x] = 0) ∧ t.i = 0 ∧ t.sp = 0 ∧
      t.dt = 0 ∧ t.st = 0 ∧ (∀ (px : Fin 64) (py : Fin 32), t.fb[px][py] = false) ∧ t.err = .noError ∧
      t.wait = false ∧ t.script = rest ∧
      ∀ a, a < 4096 → t.mem.read a =
        if a < 80 then Config.glyphRom.getD a 0
        else if 0x200 ≤ a ∧ a < 0x200 + image.length then image.getD (a - 0x200) 0 else 0

/-- What lies outside the launch order has no meaning (R264): a STEP before any LOAD since RESET, and a LOAD when one
was already issued, are refused by name (the model's refusals, log 9). -/
def Obligations.LaunchOutOfOrderIsRefused : Prop :=
  ∀ (s : State) (rest : List HostEvent) (input : StepInput) (image : List Byte),
    (s.err = .noError → s.loadIssued = false → s.script = .step input :: rest →
      step s = .refused .stepBeforeLoad) ∧
    (s.loadIssued = true → s.script = .load image :: rest → step s = .refused .loadOutOfOrder)

/-- TICK (60_exceptions.md R243), in every state: each timer is one less while above 0, floored at 0, and nothing else
changes.
That it does so when halted or waiting is the spec's decision D26 (log 8). -/
def Obligations.TickCountsBothTimersDown : Prop :=
  ∀ (s : State) (rest : List HostEvent), s.script = .tick :: rest →
    step s = .next { s with
      script := rest
      dt := if s.dt.toNat > 0 then BitVec.ofNat 8 (s.dt.toNat - 1) else s.dt
      st := if s.st.toNat > 0 then BitVec.ofNat 8 (s.st.toNat - 1) else s.st }

/-- n TICKs in a row take n from each timer, floored at 0, and change nothing else (60_exceptions.md R243, R244).
That it does so when halted or waiting is the spec's decision D26 (log 8); the script is the model's (log 2). -/
def Obligations.TicksFloorTheTimersAtZero : Prop :=
  ∀ (n : Nat) (s : State), s.script = List.replicate n .tick →
    Sys2Proof.core.run n s = .next { s with
      script := []
      dt := BitVec.ofNat 8 (s.dt.toNat - n)
      st := BitVec.ofNat 8 (s.st.toNat - n) }

/-- Halt (60_exceptions.md R236): once ERR is not 0, a STEP answers a next state in which nothing of the core has
changed, whatever it carries, a TICK changes the timers only, and a RESET clears ERR.
The halt and the running timers are the spec's decisions D2 and D26 (logs 1 and 8). -/
def Obligations.HaltedCoreStaysHalted : Prop :=
  ∀ (s : State) (rest : List HostEvent), s.err ≠ .noError →
    (∀ input, s.script = .step input :: rest → step s = .next { s with script := rest }) ∧
    (s.script = .tick :: rest → ∃ dt st, step s = .next { s with script := rest, dt := dt, st := st }) ∧
    (s.script = .reset :: rest → ∃ t, step s = .next t ∧ t.err = .noError)

/-! ### Errors (spec/60_exceptions.md) -/

/-- Which error an instruction raises and when (R230, R238), and what raising does (R235): ERR takes the code and
nothing else changes; where the table names no error the instruction answers a next state with ERR as it was.
Codes, preciseness and the exact address are the spec's decisions D2, D3 and D9 (logs 1 and 8). -/
def Obligations.InstructionsRaiseExactlyTheListedErrors : Prop :=
  ∀ (i : Instr) (s : State),
    (∀ e, i.raised s = some e → exec i s = .next { s with err := e }) ∧
    (i.raised s = none → ∃ t, exec i s = .next t ∧ t.err = s.err)

/-- Errors are precise (R235): an instruction that changes ERR changes nothing else, PC included.
This is the spec's decision D3 (log 8). -/
def Obligations.ErrorsArePrecise : Prop :=
  ∀ (i : Instr) (s t : State), exec i s = .next t → t.err ≠ s.err → t = { s with err := t.err }

/-- ERR as the host reads it: its 3-bit code (R230), `sound_active` exactly when ST > 0, and the answer of the STEP,
Ok exactly when ERR is 0 (10_state.md R31, R38, R41).
The codes are the spec's decision D2; the answer is read from ERR (log 18). -/
def Obligations.OutputsAreReadFromTheState : Prop :=
  ErrCode.code .noError = 0 ∧ ErrCode.code .decodeError = 1 ∧ ErrCode.code .stackOverflow = 2 ∧
  ErrCode.code .stackUnderflow = 3 ∧ ErrCode.code .memoryOutOfBounds = 4 ∧
  ∀ s : State, s.pcOut = s.pc ∧ s.waiting = s.wait ∧ s.errOut = s.err.code ∧
    (s.soundActive = true ↔ s.st.toNat > 0) ∧
    (s.errOut = 0 → s.answer = .ok ()) ∧ (s.errOut ≠ 0 → s.answer = .error s.errOut) ∧
    ∀ px py, s.snapshot px py = s.fb[px][py]

/-! ### Control transfer (spec/40_control_flow.md) -/

/-- RET (R120): StackUnderflow at SP = 0, nothing else changed; otherwise SP is one less and PC is the entry there
plus 2. -/
def Obligations.RetPopsTheCallStack : Prop :=
  decodeWord 0x00EE#16 = some .ret ∧
  ∀ s : State,
    (s.sp.val = 0 → exec .ret s = .next { s with err := .stackUnderflow }) ∧
    ∀ (d : Nat) (h : d < 16), s.sp.val = d + 1 →
      exec .ret s = .next { s with sp := ⟨d, Nat.lt_succ_of_lt h⟩, pc := s.stk[d] + 2 }

/-- JP (R121): PC is the zero-extended nnn, and nothing else changes. -/
def Obligations.JpSetsPc : Prop :=
  ∀ (nnn : Imm12) (s : State),
    decodeWord (0x1#4 ++ nnn) = some (.jp nnn) ∧
    exec (.jp nnn) s = .next { s with pc := BitVec.ofNat 16 nnn.toNat }

/-- CALL (R122): StackOverflow at SP = 16, nothing else changed; otherwise STK at SP takes the address of the CALL, SP
is one more and PC is the zero-extended nnn. -/
def Obligations.CallPushesItsOwnAddress : Prop :=
  ∀ (nnn : Imm12) (s : State),
    decodeWord (0x2#4 ++ nnn) = some (.call nnn) ∧
    (s.sp.val = 16 → exec (.call nnn) s = .next { s with err := .stackOverflow }) ∧
    ∀ h : s.sp.val < 16,
      exec (.call nnn) s = .next { s with
        stk := s.stk.set s.sp.val s.pc h
        sp := ⟨s.sp.val + 1, Nat.succ_lt_succ h⟩
        pc := BitVec.ofNat 16 nnn.toNat }

/-- A RET undoes a CALL: from wherever the subroutine ends with the call stack as the CALL left it, PC is the
instruction after the CALL and the depth is as before (10_state.md R28, R120, R122). -/
def Obligations.RetReturnsBehindTheCall : Prop :=
  ∀ (s : State) (nnn : Imm12) (p : Word), s.sp.val < 16 →
    ∃ t, exec (.call nnn) s = .next t ∧
      exec .ret { t with pc := p } = .next { s with stk := t.stk, pc := s.pc + 2 }

/-- JP_V0 (R123): PC is V[0] plus nnn, not reduced modulo 4096. -/
def Obligations.JpV0AddsV0 : Prop :=
  ∀ (nnn : Imm12) (s : State),
    decodeWord (0xB#4 ++ nnn) = some (.jpV0 nnn) ∧
    exec (.jpV0 nnn) s = .next { s with pc := BitVec.ofNat 16 (s.v[(0 : Fin 16)].toNat + nnn.toNat) }

/-- SE_IMM and SNE_IMM (R124, R125): PC + 4 when the condition holds, else PC + 2, and nothing else changes. -/
def Obligations.ImmediateSkips : Prop :=
  ∀ (x : Reg) (kk : Byte) (s : State),
    decodeWord (0x3#4 ++ BitVec.ofNat 4 x.val ++ kk) = some (.seImm x kk) ∧
    decodeWord (0x4#4 ++ BitVec.ofNat 4 x.val ++ kk) = some (.sneImm x kk) ∧
    exec (.seImm x kk) s = .next { s with pc := if s.v[x] = kk then s.pc + 4 else s.pc + 2 } ∧
    exec (.sneImm x kk) s = .next { s with pc := if s.v[x] ≠ kk then s.pc + 4 else s.pc + 2 }

/-- SE_REG and SNE_REG (R126, R127), whatever the low nibble u is: PC + 4 when the condition holds, else PC + 2.
That the low nibble is ignored is the spec's decision D10 (log 8); that it is kept as the operand u, the model's choice
(log 13). -/
def Obligations.RegisterSkips : Prop :=
  ∀ (x y : Reg) (u : Nibble) (s : State),
    decodeWord (0x5#4 ++ BitVec.ofNat 4 x.val ++ BitVec.ofNat 4 y.val ++ u) = some (.seReg x y u) ∧
    decodeWord (0x9#4 ++ BitVec.ofNat 4 x.val ++ BitVec.ofNat 4 y.val ++ u) = some (.sneReg x y u) ∧
    exec (.seReg x y u) s = .next { s with pc := if s.v[x] = s.v[y] then s.pc + 4 else s.pc + 2 } ∧
    exec (.sneReg x y u) s = .next { s with pc := if s.v[x] ≠ s.v[y] then s.pc + 4 else s.pc + 2 }

/-! ### Immediate and random (spec/41_load_immediate.md) -/

/-- LD_IMM and ADD_IMM (R140, R141): V[x] is kk, or V[x] + kk modulo 256 with no flag; PC + 2.
That ADD_IMM writes no flag is the spec's decision D21 (log 8). -/
def Obligations.ImmediateLoadAndAdd : Prop :=
  ∀ (x : Reg) (kk : Byte) (s : State),
    decodeWord (0x6#4 ++ BitVec.ofNat 4 x.val ++ kk) = some (.ldImm x kk) ∧
    decodeWord (0x7#4 ++ BitVec.ofNat 4 x.val ++ kk) = some (.addImm x kk) ∧
    exec (.ldImm x kk) s = .next { s with v := s.v.set x kk, pc := s.pc + 2 } ∧
    exec (.addImm x kk) s = .next { s with
      v := s.v.set x (BitVec.ofNat 8 ((s.v[x].toNat + kk.toNat) % 256)), pc := s.pc + 2 }

/-- LD_I (R142): I is the zero-extended nnn; PC + 2. -/
def Obligations.LdISetsI : Prop :=
  ∀ (nnn : Imm12) (s : State),
    decodeWord (0xA#4 ++ nnn) = some (.ldI nnn) ∧
    exec (.ldI nnn) s = .next { s with i := BitVec.ofNat 16 nnn.toNat, pc := s.pc + 2 }

/-- RND (R143): V[x] is the random byte of this STEP masked by kk, for every random byte; PC + 2.
The free byte is the spec's decision D15 (log 8). -/
def Obligations.RndMasksTheRandomByte : Prop :=
  ∀ (x : Reg) (kk : Byte) (s : State),
    decodeWord (0xC#4 ++ BitVec.ofNat 4 x.val ++ kk) = some (.rnd x kk) ∧
    exec (.rnd x kk) s = .next { s with v := s.v.set x (s.inputs.randByte &&& kk), pc := s.pc + 2 }

/-! ### Register-register ALU (spec/42_alu.md) -/

/-- LD_REG, OR, AND, XOR (R161 to R164): V[x] only, VF not written; PC + 2.
That OR, AND and XOR write no flag is the spec's decision D21 (log 8). -/
def Obligations.CopyAndBitwise : Prop :=
  ∀ (x y : Reg) (s : State),
    decodeWord (0x8#4 ++ BitVec.ofNat 4 x.val ++ BitVec.ofNat 4 y.val ++ 0x0#4) = some (.ldReg x y) ∧
    decodeWord (0x8#4 ++ BitVec.ofNat 4 x.val ++ BitVec.ofNat 4 y.val ++ 0x1#4) = some (.orReg x y) ∧
    decodeWord (0x8#4 ++ BitVec.ofNat 4 x.val ++ BitVec.ofNat 4 y.val ++ 0x2#4) = some (.andReg x y) ∧
    decodeWord (0x8#4 ++ BitVec.ofNat 4 x.val ++ BitVec.ofNat 4 y.val ++ 0x3#4) = some (.xorReg x y) ∧
    exec (.ldReg x y) s = .next { s with v := s.v.set x s.v[y], pc := s.pc + 2 } ∧
    exec (.orReg x y) s = .next { s with v := s.v.set x (s.v[x] ||| s.v[y]), pc := s.pc + 2 } ∧
    exec (.andReg x y) s = .next { s with v := s.v.set x (s.v[x] &&& s.v[y]), pc := s.pc + 2 } ∧
    exec (.xorReg x y) s = .next { s with v := s.v.set x (s.v[x] ^^^ s.v[y]), pc := s.pc + 2 }

/-- ADD_REG (R165): VF is the carry of the exact sum, then V[x] the sum modulo 256; PC + 2.
With x or y = 0xF it rests on the spec's decisions D4 and D5 (log 8). -/
def Obligations.AddRegSetsCarry : Prop :=
  ∀ (x y : Reg) (s : State),
    decodeWord (0x8#4 ++ BitVec.ofNat 4 x.val ++ BitVec.ofNat 4 y.val ++ 0x4#4) = some (.addReg x y) ∧
    exec (.addReg x y) s = .next { s with
      v := (s.v.set 15 (if s.v[x].toNat + s.v[y].toNat > 255 then 1 else 0)).set x
        (BitVec.ofNat 8 ((s.v[x].toNat + s.v[y].toNat) % 256))
      pc := s.pc + 2 }

/-- SUB and SUBN (R166, R168): VF is 1 exactly when the minuend is strictly greater, then V[x] the difference modulo
256 of the exact integers; PC + 2.
With x or y = 0xF it rests on the spec's decisions D4 and D5 (log 8). -/
def Obligations.SubtractionsSetStrictlyGreater : Prop :=
  ∀ (x y : Reg) (s : State),
    decodeWord (0x8#4 ++ BitVec.ofNat 4 x.val ++ BitVec.ofNat 4 y.val ++ 0x5#4) = some (.sub x y) ∧
    decodeWord (0x8#4 ++ BitVec.ofNat 4 x.val ++ BitVec.ofNat 4 y.val ++ 0x7#4) = some (.subn x y) ∧
    exec (.sub x y) s = .next { s with
      v := (s.v.set 15 (if s.v[x].toNat > s.v[y].toNat then 1 else 0)).set x
        (BitVec.ofInt 8 (((s.v[x].toNat : Int) - s.v[y].toNat) % 256))
      pc := s.pc + 2 } ∧
    exec (.subn x y) s = .next { s with
      v := (s.v.set 15 (if s.v[y].toNat > s.v[x].toNat then 1 else 0)).set x
        (BitVec.ofInt 8 (((s.v[y].toNat : Int) - s.v[x].toNat) % 256))
      pc := s.pc + 2 }

/-- SHR and SHL (R167, R169), whatever the y field is: VF is the bit shifted out, then V[x] is halved, or doubled
modulo 256; PC + 2.
With x = 0xF it rests on the spec's decision D5 (log 8). -/
def Obligations.ShiftsOfVxByOne : Prop :=
  ∀ (x y : Reg) (s : State),
    decodeWord (0x8#4 ++ BitVec.ofNat 4 x.val ++ BitVec.ofNat 4 y.val ++ 0x6#4) = some (.shr x y) ∧
    decodeWord (0x8#4 ++ BitVec.ofNat 4 x.val ++ BitVec.ofNat 4 y.val ++ 0xE#4) = some (.shl x y) ∧
    exec (.shr x y) s = .next { s with
      v := (s.v.set 15 (BitVec.ofNat 8 (s.v[x].toNat % 2))).set x (BitVec.ofNat 8 (s.v[x].toNat / 2))
      pc := s.pc + 2 } ∧
    exec (.shl x y) s = .next { s with
      v := (s.v.set 15 (BitVec.ofNat 8 (s.v[x].toNat / 128))).set x (BitVec.ofNat 8 (s.v[x].toNat * 2 % 256))
      pc := s.pc + 2 }

/-- With x = 0xF the result is what remains in VF and the flag is lost (R160).
This is the spec's decision D5 (log 8). -/
def Obligations.ResultRemainsWhenDestinationIsVF : Prop :=
  ∀ (y : Reg) (s t : State),
    (exec (.addReg 15 y) s = .next t →
      t.v[(15 : Fin 16)] = BitVec.ofNat 8 ((s.v[(15 : Fin 16)].toNat + s.v[y].toNat) % 256)) ∧
    (exec (.sub 15 y) s = .next t →
      t.v[(15 : Fin 16)] = BitVec.ofInt 8 (((s.v[(15 : Fin 16)].toNat : Int) - s.v[y].toNat) % 256)) ∧
    (exec (.shr 15 y) s = .next t → t.v[(15 : Fin 16)] = BitVec.ofNat 8 (s.v[(15 : Fin 16)].toNat / 2)) ∧
    (exec (.subn 15 y) s = .next t →
      t.v[(15 : Fin 16)] = BitVec.ofInt 8 (((s.v[y].toNat : Int) - s.v[(15 : Fin 16)].toNat) % 256)) ∧
    (exec (.shl 15 y) s = .next t → t.v[(15 : Fin 16)] = BitVec.ofNat 8 (s.v[(15 : Fin 16)].toNat * 2 % 256))

/-! ### Display (spec/43_display.md) -/

/-- CLS (R180): every pixel off, PC + 2, and nothing else changes. -/
def Obligations.ClsTurnsEveryPixelOff : Prop :=
  decodeWord 0x00E0#16 = some .cls ∧
  ∀ s : State, ∃ fb : Display,
    exec .cls s = .next { s with fb := fb, pc := s.pc + 2 } ∧ ∀ (px : Fin 64) (py : Fin 32), fb[px][py] = false

/-- DRW (R181): when a sprite byte lies at 4096 or above it raises MemoryOutOfBounds and changes nothing else; otherwise
every pixel is XORed with the sprite bit that lands on it, with wrap on both axes, VF is 1 exactly when a pixel that
was on is covered by a 1 bit, and PC + 2. The loops of the machine are compared with the picture pixel by pixel.
The old VF as coordinate is the spec's decision D4, the exact address D9 (log 8). -/
def Obligations.DrwXorsTheSpriteWithWrap : Prop :=
  ∀ (x y : Reg) (n : Nibble) (s : State),
    decodeWord (0xD#4 ++ BitVec.ofNat 4 x.val ++ BitVec.ofNat 4 y.val ++ n) = some (.drw x y n) ∧
    (n.toNat > 0 ∧ s.i.toNat + (n.toNat - 1) ≥ 4096 →
      exec (.drw x y n) s = .next { s with err := .memoryOutOfBounds }) ∧
    (n.toNat = 0 ∨ s.i.toNat + (n.toNat - 1) < 4096 → ∃ fb : Display,
      exec (.drw x y n) s = .next { s with
        fb := fb, v := s.v.set 15 (if s.collides x y n then 1 else 0), pc := s.pc + 2 } ∧
      ∀ (px : Fin 64) (py : Fin 32), fb[px][py] = (s.fb[px][py] ^^ s.spriteBit x y n px py))

/-- The laws of DRW (R182): two draws of the same sprite at the same origin restore the buffer; on an empty buffer the
first leaves VF 0, and the second leaves VF 1 exactly when some sprite byte is not zero. -/
def Obligations.DrawingTwiceRestoresTheBuffer : Prop :=
  ∀ (s t u : State) (x y x' y' : Reg) (n : Nibble),
    exec (.drw x y n) s = .next t → exec (.drw x' y' n) t = .next u →
    t.v[x'].toNat % 64 = s.v[x].toNat % 64 → t.v[y'].toNat % 32 = s.v[y].toNat % 32 →
    u.fb = s.fb ∧
    ((n.toNat = 0 ∨ s.i.toNat + (n.toNat - 1) < 4096) → (∀ (px : Fin 64) (py : Fin 32), s.fb[px][py] = false) →
      t.v[(15 : Fin 16)] = 0 ∧
      (u.v[(15 : Fin 16)] = 1 ↔ ∃ k, k < n.toNat ∧ s.mem.read (s.i.toNat + k) ≠ 0) ∧
      (u.v[(15 : Fin 16)] = 0 ↔ ∀ k, k < n.toNat → s.mem.read (s.i.toNat + k) = 0))

/-! ### Keypad (spec/44_keypad.md) -/

/-- SKP and SKNP (R190, R191): the key is the low four bits of V[x]; PC + 4 when it is held, or not held, else
PC + 2.
That the low four bits select the key is the spec's decision D12 (log 8). -/
def Obligations.KeySkips : Prop :=
  ∀ (x : Reg) (s : State),
    decodeWord (0xE#4 ++ BitVec.ofNat 4 x.val ++ 0x9E#8) = some (.skp x) ∧
    decodeWord (0xE#4 ++ BitVec.ofNat 4 x.val ++ 0xA1#8) = some (.sknp x) ∧
    exec (.skp x) s = .next { s with
      pc := if s.inputs.keyDown.getLsbD (s.v[x].toNat % 16) = true then s.pc + 4 else s.pc + 2 } ∧
    exec (.sknp x) s = .next { s with
      pc := if s.inputs.keyDown.getLsbD (s.v[x].toNat % 16) = false then s.pc + 4 else s.pc + 2 }

/-- LD_VX_K (R192): with no key event only WAIT becomes 1; with one, V[x] is the key's number, WAIT is 0 and PC + 2.
The key event and the PC advance are the spec's decisions D13 and D29 (log 8). -/
def Obligations.LdVxKWaitsForAKey : Prop :=
  ∀ (x : Reg) (s : State),
    decodeWord (0xF#4 ++ BitVec.ofNat 4 x.val ++ 0x0A#8) = some (.ldVxK x) ∧
    (s.inputs.keyEvent = none → exec (.ldVxK x) s = .next { s with wait := true }) ∧
    ∀ k : Nibble, s.inputs.keyEvent = some k →
      exec (.ldVxK x) s = .next { s with v := s.v.set x (BitVec.ofNat 8 k.toNat), wait := false, pc := s.pc + 2 }

/-- Waiting (60_exceptions.md R252, R192): a core at an LD_VX_K makes no progress over any sequence of TICKs and of
STEPs that carry no key event, of any length: only the timers move.
It rests on the spec's decisions D13, D14 and D26 (log 8). -/
def Obligations.KeyWaitHoldsWithoutAKeyEvent : Prop :=
  ∀ (s : State) (x : Reg), s.err = .noError → s.loadIssued = true → decodeWord s.fetch = some (.ldVxK x) →
    (∀ e ∈ s.script, e = .tick ∨ ∃ input, e = .step input ∧ input.keyEvent = none) →
    ∃ t, Sys2Proof.core.run s.script.length s = .next t ∧
      t = { s with dt := t.dt, st := t.st, wait := t.wait, inputs := t.inputs, script := [] }

/-! ### Timers (spec/45_timers.md) -/

/-- LD_VX_DT, LD_DT_VX, LD_ST_VX (R200 to R202); PC + 2.
The PC advance of this family is the spec's decision D29 (log 8). -/
def Obligations.TimerAccess : Prop :=
  ∀ (x : Reg) (s : State),
    decodeWord (0xF#4 ++ BitVec.ofNat 4 x.val ++ 0x07#8) = some (.ldVxDt x) ∧
    decodeWord (0xF#4 ++ BitVec.ofNat 4 x.val ++ 0x15#8) = some (.ldDtVx x) ∧
    decodeWord (0xF#4 ++ BitVec.ofNat 4 x.val ++ 0x18#8) = some (.ldStVx x) ∧
    exec (.ldVxDt x) s = .next { s with v := s.v.set x s.dt, pc := s.pc + 2 } ∧
    exec (.ldDtVx x) s = .next { s with dt := s.v[x], pc := s.pc + 2 } ∧
    exec (.ldStVx x) s = .next { s with st := s.v[x], pc := s.pc + 2 }

/-! ### Address register and memory (spec/46_index_memory.md) -/

/-- ADD_I (R210): I + V[x] modulo 65536, no flag, no error; PC + 2.
No flag, the 16-bit wrap and the PC advance are the spec's decisions D21, D8 and D29 (log 8). -/
def Obligations.AddIWraps : Prop :=
  ∀ (x : Reg) (s : State),
    decodeWord (0xF#4 ++ BitVec.ofNat 4 x.val ++ 0x1E#8) = some (.addI x) ∧
    exec (.addI x) s = .next { s with
      i := BitVec.ofNat 16 ((s.i.toNat + s.v[x].toNat) % 65536), pc := s.pc + 2 }

/-- LD_F (R211): I is five times the whole of V[x]; PC + 2.
No mask above 15 and the PC advance are the spec's decisions D22 and D29 (log 8). -/
def Obligations.LdFIsFiveTimesVx : Prop :=
  ∀ (x : Reg) (s : State),
    decodeWord (0xF#4 ++ BitVec.ofNat 4 x.val ++ 0x29#8) = some (.ldF x) ∧
    exec (.ldF x) s = .next { s with i := BitVec.ofNat 16 (5 * s.v[x].toNat), pc := s.pc + 2 }

/-- LD_BCD (R212): MemoryOutOfBounds and nothing else when I + 2 is 4096 or above; otherwise the three decimal digits
of V[x], hundreds first, at I, I + 1, I + 2, every other byte of Memory as before, and PC + 2.
The exact address and the PC advance are the spec's decisions D9 and D29 (log 8). -/
def Obligations.LdBcdStoresTheDigits : Prop :=
  ∀ (x : Reg) (s : State),
    decodeWord (0xF#4 ++ BitVec.ofNat 4 x.val ++ 0x33#8) = some (.ldBcd x) ∧
    (s.i.toNat + 2 ≥ 4096 → exec (.ldBcd x) s = .next { s with err := .memoryOutOfBounds }) ∧
    (s.i.toNat + 2 < 4096 → ∃ m : Memory,
      exec (.ldBcd x) s = .next { s with mem := m, pc := s.pc + 2 } ∧
      m.read s.i.toNat = BitVec.ofNat 8 (s.v[x].toNat / 100) ∧
      m.read (s.i.toNat + 1) = BitVec.ofNat 8 (s.v[x].toNat / 10 % 10) ∧
      m.read (s.i.toNat + 2) = BitVec.ofNat 8 (s.v[x].toNat % 10) ∧
      ∀ a, a ≠ s.i.toNat → a ≠ s.i.toNat + 1 → a ≠ s.i.toNat + 2 → m.read a = s.mem.read a)

/-- ST_REGS (R213): MemoryOutOfBounds and nothing else when I + x is 4096 or above; otherwise V[k] at I + k for every k
up to x, every other byte of Memory as before, I unchanged, and PC + 2.
I unchanged, the exact address and the PC advance are the spec's decisions D20, D9 and D29 (log 8). -/
def Obligations.StRegsStoresV0ToVx : Prop :=
  ∀ (x : Reg) (s : State),
    decodeWord (0xF#4 ++ BitVec.ofNat 4 x.val ++ 0x55#8) = some (.stRegs x) ∧
    (s.i.toNat + x.val ≥ 4096 → exec (.stRegs x) s = .next { s with err := .memoryOutOfBounds }) ∧
    (s.i.toNat + x.val < 4096 → ∃ m : Memory,
      exec (.stRegs x) s = .next { s with mem := m, pc := s.pc + 2 } ∧
      (∀ k : Reg, k ≤ x → m.read (s.i.toNat + k.val) = s.v[k]) ∧
      ∀ a, (∀ k : Reg, k ≤ x → a ≠ s.i.toNat + k.val) → m.read a = s.mem.read a)

/-- LD_REGS (R214): MemoryOutOfBounds and nothing else when I + x is 4096 or above; otherwise V[k] is the byte at I + k
for every k up to x, the registers above x and I are unchanged, and PC + 2.
I unchanged, the exact address and the PC advance are the spec's decisions D20, D9 and D29 (log 8). -/
def Obligations.LdRegsLoadsV0ToVx : Prop :=
  ∀ (x : Reg) (s : State),
    decodeWord (0xF#4 ++ BitVec.ofNat 4 x.val ++ 0x65#8) = some (.ldRegs x) ∧
    (s.i.toNat + x.val ≥ 4096 → exec (.ldRegs x) s = .next { s with err := .memoryOutOfBounds }) ∧
    (s.i.toNat + x.val < 4096 → ∃ v : Vector Byte 16,
      exec (.ldRegs x) s = .next { s with v := v, pc := s.pc + 2 } ∧
      (∀ k : Reg, k ≤ x → v[k] = s.mem.read (s.i.toNat + k.val)) ∧ ∀ k : Reg, x < k → v[k] = s.v[k])

/-! ### What an instruction leaves unchanged -/

/-- General registers (10_state.md R21, R22): of all instructions, each changes only its named destination, and VF when
it is one of the six that write VF.
That no other instruction writes VF is the spec's decision D21 (log 8). -/
def Obligations.OnlyDestinationsAndVFChange : Prop :=
  ∀ (i : Instr) (s t : State) (r : Reg), exec i s = .next t →
    i.destination r = false → (i.setsFlag = true → r ≠ 15) → t.v[r] = s.v[r]

/-- VF (10_state.md R21): each of the six instructions that write it leaves 0 or 1 there on every execution that does
not raise, unless VF is also its destination. -/
def Obligations.FlagIsZeroOrOne : Prop :=
  ∀ (i : Instr) (s t : State), i.setsFlag = true → i.destination 15 = false → i.raised s = none →
    exec i s = .next t → t.v[(15 : Fin 16)] = 0 ∨ t.v[(15 : Fin 16)] = 1

/-- Memory (20_memory.md R72): an instruction that stores nothing leaves every byte as it was; LD_BCD and ST_REGS leave
every byte but those at I, I + 1, ... that they store to.
R72 is the spec's own derivation. -/
def Obligations.OnlyStoredBytesChange : Prop :=
  ∀ (i : Instr) (s t : State), exec i s = .next t →
    ∀ a, (∀ k, k < i.storeCount → a ≠ s.dataAddr k) → t.mem.read a = s.mem.read a

/-- The address register (10_state.md R26) is written by LD_I, ADD_I and LD_F only.
For ST_REGS and LD_REGS this is the spec's decision D20 (log 8). -/
def Obligations.OnlyThreeInstructionsWriteI : Prop :=
  ∀ (i : Instr) (s t : State), (∀ nnn, i ≠ .ldI nnn) → (∀ x, i ≠ .addI x) → (∀ x, i ≠ .ldF x) →
    exec i s = .next t → t.i = s.i

/-- The call stack (10_state.md R27, R28) is written by CALL and RET only, and RET writes no entry. That a popped entry
keeps its value is the spec's decision D27 (log 8). -/
def Obligations.OnlyCallAndRetChangeTheStack : Prop :=
  ∀ (i : Instr) (s t : State), (∀ nnn, i ≠ .call nnn) → exec i s = .next t →
    t.stk = s.stk ∧ (i ≠ .ret → t.sp = s.sp)

/-- Display, timers and WAIT (10_state.md R29, R30, R32): FB is written by CLS and DRW only, DT by LD_DT_VX, ST by
LD_ST_VX, WAIT by LD_VX_K; and no instruction touches what is the host's: the sampled inputs, the pending events, the
count of free inputs and the launch order.
The fields of the host are the model's own (logs 2, 3, 4, 9). -/
def Obligations.DeviceStateIsWrittenByItsOwnInstructions : Prop :=
  ∀ (i : Instr) (s t : State), exec i s = .next t →
    (i ≠ .cls → (∀ x y n, i ≠ .drw x y n) → t.fb = s.fb) ∧
    ((∀ x, i ≠ .ldDtVx x) → t.dt = s.dt) ∧ ((∀ x, i ≠ .ldStVx x) → t.st = s.st) ∧
    ((∀ x, i ≠ .ldVxK x) → t.wait = s.wait) ∧
    t.inputs = s.inputs ∧ t.script = s.script ∧ t.freeIndex = s.freeIndex ∧ t.loadIssued = s.loadIssued

/-! ### Invariants of every step -/

/-- Every step keeps Memory in its canonical form, with every listed address below 4096 (20_memory.md R60, R67: "no
write may target an address ≥ 4096").
The canonical form is the model's own (log 14). -/
def Obligations.StepKeepsMemoryCanonical : Prop :=
  ∀ s t : State, s.mem.wf → step s = .next t → t.mem.wf

/-- Memory is in its canonical form at reset. The canonical form is the model's own (log 14). -/
def Obligations.MemoryIsCanonicalAtReset : Prop := State.reset.mem.wf

/-- Every step keeps this: while WAIT is 1 the core is not halted and sits at an LD_VX_K, so that the next STEP finds
the same instruction (10_state.md R32).
R32 gives it as the spec's own derivation. -/
def Obligations.StepKeepsWaitingAtKeyWait : Prop :=
  ∀ s t : State, s.waitsAtKeyWait → step s = .next t → t.waitsAtKeyWait

/-- The core does not wait at reset. -/
def Obligations.ResetWaitsAtNothing : Prop := State.reset.waitsAtKeyWait

/-- Every step keeps this: until a LOAD the core has the values RESET leaves (70_reset_and_hazards.md R260, R264),
written out one by one. PC and STK at 0 there are the model's choice (logs 5 and 6), the launch order its field (log 9), the
list of memory bytes its form (log 14); display, ERR and WAIT rest on the spec's decisions D17, D2 and D14 (log 8). -/
def Obligations.StepKeepsTheLaunchOrder : Prop :=
  ∀ s t : State, s.launchesFromReset → step s = .next t → t.launchesFromReset

/-- At reset no LOAD has been issued, and the core has the values RESET leaves (R260), written out one by one; the same
clauses are the model's choice or the spec's decisions as in `StepKeepsTheLaunchOrder` (logs 5, 6, 8, 9 and 14). -/
def Obligations.ResetIsInLaunchOrder : Prop := State.reset.loadIssued = false ∧ State.reset.launchesFromReset
end

