-- ==== Sys2Proof/Laws/Decode.lean ====
section
/-!
SUPPORT. The fields of an encoded word, one lemma per field and format: what the decoder reads is what the encoder
wrote. And a word is its fields.
-/

namespace Sys2Proof

theorem regBits_toFin (x : Reg) : (regBits x).toFin = x := rfl

/-- A register number's four bits, as a number. -/
theorem regBits_eq_ofNat (x : Reg) : regBits x = BitVec.ofNat 4 x.val := by
  apply BitVec.eq_of_toNat_eq
  simp [regBits]

theorem slice_append_high {w v : Nat} (a : BitVec w) (b : BitVec v) : (a ++ b).extractLsb' v w = a := by
  ext i hi
  simp [BitVec.getLsbD_append, BitVec.getLsbD_eq_getElem hi]

theorem slice_append_low {w v n k : Nat} (a : BitVec w) (b : BitVec v) (h : k + n ≤ v) :
    (a ++ b).extractLsb' k n = b.extractLsb' k n := by
  ext i hi
  simp [BitVec.getLsbD_append, show k + i < v by omega]

theorem slice_append_above {w v n k : Nat} (a : BitVec w) (b : BitVec v) (h : v ≤ k) :
    (a ++ b).extractLsb' k n = a.extractLsb' (k - v) n := by
  ext i hi
  simp [BitVec.getLsbD_append, show ¬ k + i < v by omega, show k + i - v = k - v + i by omega]

theorem slice_whole {w : Nat} (a : BitVec w) : a.extractLsb' 0 w = a := by simp

section
variable (t n : Nibble) (x y : Reg) (kk : Byte) (nnn : Imm12)

@[simp] theorem fieldTop_encodeA : fieldTop (encodeA t nnn) = t := slice_append_high t nnn
@[simp] theorem fieldNnn_encodeA : fieldNnn (encodeA t nnn) = nnn :=
  (slice_append_low t nnn (Nat.le_refl _)).trans (slice_whole nnn)

@[simp] theorem fieldTop_encodeXK : fieldTop (encodeXK t x kk) = t :=
  (slice_append_above (t ++ regBits x) kk (by decide)).trans (slice_append_high t (regBits x))
@[simp] theorem fieldX_encodeXK : fieldX (encodeXK t x kk) = x := by
  have h : (encodeXK t x kk).extractLsb' 8 4 = regBits x :=
    (slice_append_above (t ++ regBits x) kk (by decide)).trans
      ((slice_append_low t (regBits x) (by decide)).trans (slice_whole _))
  rw [fieldX, h, regBits_toFin]
@[simp] theorem fieldKk_encodeXK : fieldKk (encodeXK t x kk) = kk :=
  (slice_append_low (t ++ regBits x) kk (Nat.le_refl _)).trans (slice_whole kk)

@[simp] theorem fieldTop_encodeXYN : fieldTop (encodeXYN t x y n) = t :=
  (slice_append_above (t ++ regBits x ++ regBits y) n (by decide)).trans
    ((slice_append_above (t ++ regBits x) (regBits y) (by decide)).trans (slice_append_high t (regBits x)))
@[simp] theorem fieldX_encodeXYN : fieldX (encodeXYN t x y n) = x := by
  have h : (encodeXYN t x y n).extractLsb' 8 4 = regBits x :=
    (slice_append_above (t ++ regBits x ++ regBits y) n (by decide)).trans
      ((slice_append_above (t ++ regBits x) (regBits y) (by decide)).trans
        ((slice_append_low t (regBits x) (by decide)).trans (slice_whole _)))
  rw [fieldX, h, regBits_toFin]
@[simp] theorem fieldY_encodeXYN : fieldY (encodeXYN t x y n) = y := by
  have h : (encodeXYN t x y n).extractLsb' 4 4 = regBits y :=
    (slice_append_above (t ++ regBits x ++ regBits y) n (by decide)).trans
      ((slice_append_low (t ++ regBits x) (regBits y) (by decide)).trans (slice_whole _))
  rw [fieldY, h, regBits_toFin]
@[simp] theorem fieldN_encodeXYN : fieldN (encodeXYN t x y n) = n :=
  (slice_append_low (t ++ regBits x ++ regBits y) n (Nat.le_refl _)).trans (slice_whole n)
end

/-! ### A word is its fields -/

section
variable (op : OpWord)

theorem encodeA_fields : encodeA (fieldTop op) (fieldNnn op) = op := by
  apply BitVec.eq_of_getLsbD_eq
  intro i hi
  simp only [encodeA, fieldTop, fieldNnn, BitVec.getLsbD_append, BitVec.getLsbD_extractLsb']
  interval_cases i <;> simp

theorem regBits_fieldX : regBits (fieldX op) = op.extractLsb' 8 4 := rfl
theorem regBits_fieldY : regBits (fieldY op) = op.extractLsb' 4 4 := rfl

theorem encodeXK_fields : encodeXK (fieldTop op) (fieldX op) (fieldKk op) = op := by
  apply BitVec.eq_of_getLsbD_eq
  intro i hi
  rw [encodeXK, regBits_fieldX]
  simp only [fieldTop, fieldKk, BitVec.getLsbD_append, BitVec.getLsbD_extractLsb']
  interval_cases i <;> simp

theorem encodeXYN_fields : encodeXYN (fieldTop op) (fieldX op) (fieldY op) (fieldN op) = op := by
  apply BitVec.eq_of_getLsbD_eq
  intro i hi
  rw [encodeXYN, regBits_fieldX, regBits_fieldY]
  simp only [fieldTop, fieldN, BitVec.getLsbD_append, BitVec.getLsbD_extractLsb']
  interval_cases i <;> simp

end

/-- The two bytes of a word, joined big-endian, are the word. -/
theorem joinBigEndian_bytes (op : OpWord) : joinBigEndian (op.extractLsb' 8 8) (op.extractLsb' 0 8) = op := by
  apply BitVec.eq_of_getLsbD_eq
  intro i hi
  simp only [joinBigEndian, BitVec.getLsbD_append, BitVec.getLsbD_extractLsb']
  interval_cases i <;> simp

end Sys2Proof
end

