-- ==== Sys2Proof/Laws/Memory.lean ====
section
/-!
SUPPORT. The laws of Memory: a read after a write, runs of bytes, the canonical form kept by every operation, and the
canonical form being canonical (two memories in it that read alike are equal).
-/

namespace Sys2Proof.Machine

variable (m : Memory) (a c : Nat) (b : Byte)

/-! ### Reading after writing -/

@[simp] theorem Memory.read_nil : Memory.read [] a = Memory.resetByte a := rfl

theorem Memory.read_cons (e : Host.Cell) : Memory.read (e :: m) a = if e.1 = a then e.2 else m.read a := rfl

theorem Memory.read_insert : (Memory.insert a b m).read c = if c = a then b else m.read c := by
  induction m with
  | nil => simp [Memory.insert, Memory.read_cons, eq_comm]
  | cons e m ih =>
    by_cases hlt : a < e.1
    · simp only [Memory.insert, if_pos hlt, Memory.read_cons, eq_comm]
    · by_cases heq : a = e.1
      · subst heq
        by_cases hc : c = e.1
        · simp [Memory.insert, Memory.read_cons, hc]
        · simp [Memory.insert, Memory.read_cons, hc, Ne.symm hc]
      · by_cases hc : c = a
        · subst hc
          simp [Memory.insert, Memory.read_cons, hlt, heq, Ne.symm heq, ih]
        · simp [Memory.insert, Memory.read_cons, hlt, heq, hc, ih]

theorem Memory.read_erase : (Memory.erase a m).read c = if c = a then Memory.resetByte a else m.read c := by
  induction m with
  | nil => simp only [Memory.erase, List.filter_nil, Memory.read_nil]; split <;> simp_all
  | cons e m ih =>
    simp only [Memory.erase, List.filter_cons] at ih ⊢
    by_cases he : e.1 = a
    · by_cases hc : c = a
      · subst hc
        simpa [he] using ih
      · simp [he, hc, ih, Memory.read_cons, Ne.symm hc]
    · by_cases hc : c = a
      · subst hc
        simp [he, ih, Memory.read_cons]
      · simp [he, hc, ih, Memory.read_cons]

/-- A read after a write: the byte written there, every other byte as before. -/
theorem Memory.read_write : (m.write a b).read c = if c = a then b else m.read c := by
  unfold Memory.write
  split
  · next h => rw [Memory.read_erase, h]
  · exact Memory.read_insert m a c b

@[simp] theorem Memory.read_write_same : (m.write a b).read a = b := by simp [Memory.read_write]

theorem Memory.read_write_other {a c : Nat} (h : c ≠ a) : (m.write a b).read c = m.read c := by
  simp [Memory.read_write, h]

/-! ### Runs of bytes -/

@[simp] theorem Memory.length_readBytes (n : Nat) : (m.readBytes a n).length = n := by
  induction n generalizing a with
  | zero => rfl
  | succ n ih => simp [Memory.readBytes, ih]

theorem Memory.getD_readBytes {k n : Nat} (h : k < n) : (m.readBytes a n).getD k 0 = m.read (a + k) := by
  induction n generalizing a k with
  | zero => omega
  | succ n ih =>
    cases k with
    | zero => rfl
    | succ k => simpa [Memory.readBytes, Nat.add_assoc, Nat.add_comm 1 k] using ih (a + 1) (by omega : k < n)

/-- A read after a run of writes: the byte written there inside the run, every other byte as before. -/
theorem Memory.read_writeBytes (bs : List Byte) :
    (m.writeBytes a bs).read c = if a ≤ c ∧ c < a + bs.length then bs.getD (c - a) 0 else m.read c := by
  induction bs generalizing a with
  | nil => simp [Memory.writeBytes]
  | cons b bs ih =>
    rw [Memory.writeBytes, Memory.read_write, ih]
    by_cases hc : c = a
    · subst hc; simp
    · by_cases hin : a + 1 ≤ c ∧ c < a + 1 + bs.length
      · obtain ⟨k, rfl⟩ : ∃ k, c = a + 1 + k := ⟨c - (a + 1), by omega⟩
        have h1 : a + 1 + k - a = k + 1 := by omega
        have h2 : a + 1 + k - (a + 1) = k := by omega
        rw [if_neg hc, if_pos hin, if_pos (by simp only [List.length_cons]; omega), h1, h2, List.getD_cons_succ]
      · rw [if_neg hc, if_neg hin, if_neg (by simp only [List.length_cons]; omega)]

theorem Memory.read_writeBytes_outside {bs : List Byte} (h : ∀ k, k < bs.length → c ≠ a + k) :
    (m.writeBytes a bs).read c = m.read c := by
  rw [Memory.read_writeBytes, if_neg]
  rintro ⟨h1, h2⟩
  exact h (c - a) (by omega) (by omega)

/-! ### The canonical form -/

theorem Memory.wf_nil : Memory.wf [] := by simp [Memory.wf]

theorem Memory.mem_insert {e : Host.Cell} (h : e ∈ Memory.insert a b m) : e = (a, b) ∨ e ∈ m := by
  induction m with
  | nil => simpa [Memory.insert] using h
  | cons d m ih =>
    simp only [Memory.insert] at h
    split at h
    · simpa using h
    · split at h
      · rcases List.mem_cons.1 h with h | h
        · exact .inl h
        · exact .inr (List.mem_cons_of_mem _ h)
      · rcases List.mem_cons.1 h with h | h
        · exact .inr (h ▸ List.mem_cons_self)
        · rcases ih h with h | h
          · exact .inl h
          · exact .inr (List.mem_cons_of_mem _ h)

theorem Memory.sorted_insert (h : m.Pairwise fun c d => c.1 < d.1) :
    (Memory.insert a b m).Pairwise fun c d => c.1 < d.1 := by
  induction m with
  | nil => simp [Memory.insert]
  | cons d m ih =>
    obtain ⟨hd, hm⟩ := List.pairwise_cons.1 h
    simp only [Memory.insert]
    split
    · next hlt =>
      refine List.pairwise_cons.2 ⟨fun e he => ?_, h⟩
      rcases List.mem_cons.1 he with rfl | he
      · exact hlt
      · exact Nat.lt_trans hlt (hd e he)
    · split
      · next heq => exact List.pairwise_cons.2 ⟨fun e he => by simpa [heq] using hd e he, hm⟩
      · refine List.pairwise_cons.2 ⟨fun e he => ?_, ih hm⟩
        rcases Memory.mem_insert m a b he with rfl | he
        · show d.1 < a; omega
        · exact hd e he

/-- A write below 4096 keeps the canonical form. -/
theorem Memory.wf_write {m : Memory} {a : Nat} (h : m.wf) (ha : a < Config.memSize) : (m.write a b).wf := by
  obtain ⟨hs, hb⟩ := h
  unfold Memory.write
  split
  · exact ⟨hs.filter _, fun c hc => hb c (List.mem_of_mem_filter hc)⟩
  · next hne =>
    refine ⟨Memory.sorted_insert m a b hs, fun c hc => ?_⟩
    rcases Memory.mem_insert m a b hc with rfl | hc
    · exact ⟨ha, hne⟩
    · exact hb c hc

/-- A run of writes that ends at 4096 or below keeps the canonical form. -/
theorem Memory.wf_writeBytes {m : Memory} {a : Nat} {bs : List Byte} (h : m.wf)
    (ha : a + bs.length ≤ Config.memSize) : (m.writeBytes a bs).wf := by
  induction bs generalizing a with
  | nil => exact h
  | cons b bs ih =>
    simp only [List.length_cons] at ha
    exact Memory.wf_write b (ih (by omega)) (by omega)

/-- A byte below the first listed address reads as RESET left it. -/
theorem Memory.read_below {m : Memory} {a : Nat} (h : ∀ c ∈ m, a < c.1) : m.read a = Memory.resetByte a := by
  induction m with
  | nil => rfl
  | cons e m ih =>
    have he := h e List.mem_cons_self
    rw [Memory.read_cons, if_neg (by omega), ih fun c hc => h c (List.mem_cons_of_mem _ hc)]

/-- The form is canonical: two memories in it that read alike are the same list. -/
theorem Memory.wf_ext {m n : Memory} (hm : m.wf) (hn : n.wf) (h : ∀ a, m.read a = n.read a) : m = n := by
  obtain ⟨sm, bm⟩ := hm
  obtain ⟨sn, bn⟩ := hn
  induction m generalizing n with
  | nil =>
    cases n with
    | nil => rfl
    | cons e n =>
      have := h e.1
      rw [Memory.read_nil, Memory.read_cons, if_pos rfl] at this
      exact absurd this.symm (bn e List.mem_cons_self).2
  | cons d m ih =>
    obtain ⟨hd, sm'⟩ := List.pairwise_cons.1 sm
    cases n with
    | nil =>
      have := h d.1
      rw [Memory.read_nil, Memory.read_cons, if_pos rfl] at this
      exact absurd this (bm d List.mem_cons_self).2
    | cons e n =>
      obtain ⟨he, sn'⟩ := List.pairwise_cons.1 sn
      have key : d.1 = e.1 := by
        rcases Nat.lt_trichotomy d.1 e.1 with hlt | heq | hgt
        · have := h d.1
          rw [Memory.read_cons, if_pos rfl, Memory.read_below (m := e :: n)] at this
          · exact absurd this (bm d List.mem_cons_self).2
          · intro c hc
            rcases List.mem_cons.1 hc with rfl | hc
            · exact hlt
            · exact Nat.lt_trans hlt (he c hc)
        · exact heq
        · have := h e.1
          rw [Memory.read_cons (a := e.1) n e, if_pos rfl, Memory.read_below (m := d :: m)] at this
          · exact absurd this.symm (bn e List.mem_cons_self).2
          · intro c hc
            rcases List.mem_cons.1 hc with rfl | hc
            · exact hgt
            · exact Nat.lt_trans hgt (hd c hc)
      have hval : d.2 = e.2 := by
        have := h d.1
        rwa [Memory.read_cons, if_pos rfl, Memory.read_cons, if_pos key.symm] at this
      have hde : d = e := Prod.ext key hval
      subst hde
      congr 1
      refine ih (fun a => ?_) sm' (fun c hc => bm c (List.mem_cons_of_mem _ hc)) sn'
        (fun c hc => bn c (List.mem_cons_of_mem _ hc))
      by_cases ha : d.1 = a
      · subst ha
        rw [Memory.read_below hd, Memory.read_below he]
      · have := h a
        rwa [Memory.read_cons, if_neg ha, Memory.read_cons, if_neg ha] at this

end Sys2Proof.Machine
end

