-- ==== Sys2Proof/Laws/State.lean ====
section
/-!
SUPPORT. One lemma per field per named update of the state, each true by rfl and a simp lemma, so that a proof never
unfolds a record update.
-/

namespace Sys2Proof.Machine

variable (s : State)

/-! ### `State.writeV` -/

@[simp] theorem State.writeV_v (x : Reg) (b : Byte) : (s.writeV x b).v = s.v.set x b := rfl
@[simp] theorem State.writeV_pc (x : Reg) (b : Byte) : (s.writeV x b).pc = s.pc := rfl
@[simp] theorem State.writeV_i (x : Reg) (b : Byte) : (s.writeV x b).i = s.i := rfl
@[simp] theorem State.writeV_stk (x : Reg) (b : Byte) : (s.writeV x b).stk = s.stk := rfl
@[simp] theorem State.writeV_sp (x : Reg) (b : Byte) : (s.writeV x b).sp = s.sp := rfl
@[simp] theorem State.writeV_fb (x : Reg) (b : Byte) : (s.writeV x b).fb = s.fb := rfl
@[simp] theorem State.writeV_dt (x : Reg) (b : Byte) : (s.writeV x b).dt = s.dt := rfl
@[simp] theorem State.writeV_st (x : Reg) (b : Byte) : (s.writeV x b).st = s.st := rfl
@[simp] theorem State.writeV_mem (x : Reg) (b : Byte) : (s.writeV x b).mem = s.mem := rfl
@[simp] theorem State.writeV_err (x : Reg) (b : Byte) : (s.writeV x b).err = s.err := rfl
@[simp] theorem State.writeV_wait (x : Reg) (b : Byte) : (s.writeV x b).wait = s.wait := rfl
@[simp] theorem State.writeV_inputs (x : Reg) (b : Byte) : (s.writeV x b).inputs = s.inputs := rfl
@[simp] theorem State.writeV_script (x : Reg) (b : Byte) : (s.writeV x b).script = s.script := rfl
@[simp] theorem State.writeV_freeIndex (x : Reg) (b : Byte) : (s.writeV x b).freeIndex = s.freeIndex := rfl
@[simp] theorem State.writeV_loadIssued (x : Reg) (b : Byte) : (s.writeV x b).loadIssued = s.loadIssued := rfl

/-! ### `State.writeFlagged` -/

@[simp] theorem State.writeFlagged_v (x : Reg) (f b : Byte) : (s.writeFlagged x f b).v = (s.v.set 15 f).set x b := rfl
@[simp] theorem State.writeFlagged_pc (x : Reg) (f b : Byte) : (s.writeFlagged x f b).pc = s.pc := rfl
@[simp] theorem State.writeFlagged_i (x : Reg) (f b : Byte) : (s.writeFlagged x f b).i = s.i := rfl
@[simp] theorem State.writeFlagged_stk (x : Reg) (f b : Byte) : (s.writeFlagged x f b).stk = s.stk := rfl
@[simp] theorem State.writeFlagged_sp (x : Reg) (f b : Byte) : (s.writeFlagged x f b).sp = s.sp := rfl
@[simp] theorem State.writeFlagged_fb (x : Reg) (f b : Byte) : (s.writeFlagged x f b).fb = s.fb := rfl
@[simp] theorem State.writeFlagged_dt (x : Reg) (f b : Byte) : (s.writeFlagged x f b).dt = s.dt := rfl
@[simp] theorem State.writeFlagged_st (x : Reg) (f b : Byte) : (s.writeFlagged x f b).st = s.st := rfl
@[simp] theorem State.writeFlagged_mem (x : Reg) (f b : Byte) : (s.writeFlagged x f b).mem = s.mem := rfl
@[simp] theorem State.writeFlagged_err (x : Reg) (f b : Byte) : (s.writeFlagged x f b).err = s.err := rfl
@[simp] theorem State.writeFlagged_wait (x : Reg) (f b : Byte) : (s.writeFlagged x f b).wait = s.wait := rfl
@[simp] theorem State.writeFlagged_inputs (x : Reg) (f b : Byte) : (s.writeFlagged x f b).inputs = s.inputs := rfl
@[simp] theorem State.writeFlagged_script (x : Reg) (f b : Byte) : (s.writeFlagged x f b).script = s.script := rfl
@[simp] theorem State.writeFlagged_freeIndex (x : Reg) (f b : Byte) : (s.writeFlagged x f b).freeIndex = s.freeIndex := rfl
@[simp] theorem State.writeFlagged_loadIssued (x : Reg) (f b : Byte) : (s.writeFlagged x f b).loadIssued = s.loadIssued := rfl

/-! ### `State.loadV` -/

@[simp] theorem State.loadV_v (x : Reg) (bs : List Byte) : (s.loadV x bs).v = Vector.ofFn fun r : Fin 16 => if r ≤ x then bs.getD r 0 else s.v[r] := rfl
@[simp] theorem State.loadV_pc (x : Reg) (bs : List Byte) : (s.loadV x bs).pc = s.pc := rfl
@[simp] theorem State.loadV_i (x : Reg) (bs : List Byte) : (s.loadV x bs).i = s.i := rfl
@[simp] theorem State.loadV_stk (x : Reg) (bs : List Byte) : (s.loadV x bs).stk = s.stk := rfl
@[simp] theorem State.loadV_sp (x : Reg) (bs : List Byte) : (s.loadV x bs).sp = s.sp := rfl
@[simp] theorem State.loadV_fb (x : Reg) (bs : List Byte) : (s.loadV x bs).fb = s.fb := rfl
@[simp] theorem State.loadV_dt (x : Reg) (bs : List Byte) : (s.loadV x bs).dt = s.dt := rfl
@[simp] theorem State.loadV_st (x : Reg) (bs : List Byte) : (s.loadV x bs).st = s.st := rfl
@[simp] theorem State.loadV_mem (x : Reg) (bs : List Byte) : (s.loadV x bs).mem = s.mem := rfl
@[simp] theorem State.loadV_err (x : Reg) (bs : List Byte) : (s.loadV x bs).err = s.err := rfl
@[simp] theorem State.loadV_wait (x : Reg) (bs : List Byte) : (s.loadV x bs).wait = s.wait := rfl
@[simp] theorem State.loadV_inputs (x : Reg) (bs : List Byte) : (s.loadV x bs).inputs = s.inputs := rfl
@[simp] theorem State.loadV_script (x : Reg) (bs : List Byte) : (s.loadV x bs).script = s.script := rfl
@[simp] theorem State.loadV_freeIndex (x : Reg) (bs : List Byte) : (s.loadV x bs).freeIndex = s.freeIndex := rfl
@[simp] theorem State.loadV_loadIssued (x : Reg) (bs : List Byte) : (s.loadV x bs).loadIssued = s.loadIssued := rfl

/-! ### `State.setPc` -/

@[simp] theorem State.setPc_v (a : Word) : (s.setPc a).v = s.v := rfl
@[simp] theorem State.setPc_pc (a : Word) : (s.setPc a).pc = a := rfl
@[simp] theorem State.setPc_i (a : Word) : (s.setPc a).i = s.i := rfl
@[simp] theorem State.setPc_stk (a : Word) : (s.setPc a).stk = s.stk := rfl
@[simp] theorem State.setPc_sp (a : Word) : (s.setPc a).sp = s.sp := rfl
@[simp] theorem State.setPc_fb (a : Word) : (s.setPc a).fb = s.fb := rfl
@[simp] theorem State.setPc_dt (a : Word) : (s.setPc a).dt = s.dt := rfl
@[simp] theorem State.setPc_st (a : Word) : (s.setPc a).st = s.st := rfl
@[simp] theorem State.setPc_mem (a : Word) : (s.setPc a).mem = s.mem := rfl
@[simp] theorem State.setPc_err (a : Word) : (s.setPc a).err = s.err := rfl
@[simp] theorem State.setPc_wait (a : Word) : (s.setPc a).wait = s.wait := rfl
@[simp] theorem State.setPc_inputs (a : Word) : (s.setPc a).inputs = s.inputs := rfl
@[simp] theorem State.setPc_script (a : Word) : (s.setPc a).script = s.script := rfl
@[simp] theorem State.setPc_freeIndex (a : Word) : (s.setPc a).freeIndex = s.freeIndex := rfl
@[simp] theorem State.setPc_loadIssued (a : Word) : (s.setPc a).loadIssued = s.loadIssued := rfl

/-! ### `State.advance` -/

@[simp] theorem State.advance_v : (s.advance).v = s.v := rfl
@[simp] theorem State.advance_pc : (s.advance).pc = s.pc + 2 := rfl
@[simp] theorem State.advance_i : (s.advance).i = s.i := rfl
@[simp] theorem State.advance_stk : (s.advance).stk = s.stk := rfl
@[simp] theorem State.advance_sp : (s.advance).sp = s.sp := rfl
@[simp] theorem State.advance_fb : (s.advance).fb = s.fb := rfl
@[simp] theorem State.advance_dt : (s.advance).dt = s.dt := rfl
@[simp] theorem State.advance_st : (s.advance).st = s.st := rfl
@[simp] theorem State.advance_mem : (s.advance).mem = s.mem := rfl
@[simp] theorem State.advance_err : (s.advance).err = s.err := rfl
@[simp] theorem State.advance_wait : (s.advance).wait = s.wait := rfl
@[simp] theorem State.advance_inputs : (s.advance).inputs = s.inputs := rfl
@[simp] theorem State.advance_script : (s.advance).script = s.script := rfl
@[simp] theorem State.advance_freeIndex : (s.advance).freeIndex = s.freeIndex := rfl
@[simp] theorem State.advance_loadIssued : (s.advance).loadIssued = s.loadIssued := rfl

/-! ### `State.skipIf` -/

@[simp] theorem State.skipIf_v (c : Bool) : (s.skipIf c).v = s.v := rfl
@[simp] theorem State.skipIf_pc (c : Bool) : (s.skipIf c).pc = if c then s.pc + 4 else s.pc + 2 := rfl
@[simp] theorem State.skipIf_i (c : Bool) : (s.skipIf c).i = s.i := rfl
@[simp] theorem State.skipIf_stk (c : Bool) : (s.skipIf c).stk = s.stk := rfl
@[simp] theorem State.skipIf_sp (c : Bool) : (s.skipIf c).sp = s.sp := rfl
@[simp] theorem State.skipIf_fb (c : Bool) : (s.skipIf c).fb = s.fb := rfl
@[simp] theorem State.skipIf_dt (c : Bool) : (s.skipIf c).dt = s.dt := rfl
@[simp] theorem State.skipIf_st (c : Bool) : (s.skipIf c).st = s.st := rfl
@[simp] theorem State.skipIf_mem (c : Bool) : (s.skipIf c).mem = s.mem := rfl
@[simp] theorem State.skipIf_err (c : Bool) : (s.skipIf c).err = s.err := rfl
@[simp] theorem State.skipIf_wait (c : Bool) : (s.skipIf c).wait = s.wait := rfl
@[simp] theorem State.skipIf_inputs (c : Bool) : (s.skipIf c).inputs = s.inputs := rfl
@[simp] theorem State.skipIf_script (c : Bool) : (s.skipIf c).script = s.script := rfl
@[simp] theorem State.skipIf_freeIndex (c : Bool) : (s.skipIf c).freeIndex = s.freeIndex := rfl
@[simp] theorem State.skipIf_loadIssued (c : Bool) : (s.skipIf c).loadIssued = s.loadIssued := rfl

/-! ### `State.setI` -/

@[simp] theorem State.setI_v (a : Word) : (s.setI a).v = s.v := rfl
@[simp] theorem State.setI_pc (a : Word) : (s.setI a).pc = s.pc := rfl
@[simp] theorem State.setI_i (a : Word) : (s.setI a).i = a := rfl
@[simp] theorem State.setI_stk (a : Word) : (s.setI a).stk = s.stk := rfl
@[simp] theorem State.setI_sp (a : Word) : (s.setI a).sp = s.sp := rfl
@[simp] theorem State.setI_fb (a : Word) : (s.setI a).fb = s.fb := rfl
@[simp] theorem State.setI_dt (a : Word) : (s.setI a).dt = s.dt := rfl
@[simp] theorem State.setI_st (a : Word) : (s.setI a).st = s.st := rfl
@[simp] theorem State.setI_mem (a : Word) : (s.setI a).mem = s.mem := rfl
@[simp] theorem State.setI_err (a : Word) : (s.setI a).err = s.err := rfl
@[simp] theorem State.setI_wait (a : Word) : (s.setI a).wait = s.wait := rfl
@[simp] theorem State.setI_inputs (a : Word) : (s.setI a).inputs = s.inputs := rfl
@[simp] theorem State.setI_script (a : Word) : (s.setI a).script = s.script := rfl
@[simp] theorem State.setI_freeIndex (a : Word) : (s.setI a).freeIndex = s.freeIndex := rfl
@[simp] theorem State.setI_loadIssued (a : Word) : (s.setI a).loadIssued = s.loadIssued := rfl

/-! ### `State.setDt` -/

@[simp] theorem State.setDt_v (b : Byte) : (s.setDt b).v = s.v := rfl
@[simp] theorem State.setDt_pc (b : Byte) : (s.setDt b).pc = s.pc := rfl
@[simp] theorem State.setDt_i (b : Byte) : (s.setDt b).i = s.i := rfl
@[simp] theorem State.setDt_stk (b : Byte) : (s.setDt b).stk = s.stk := rfl
@[simp] theorem State.setDt_sp (b : Byte) : (s.setDt b).sp = s.sp := rfl
@[simp] theorem State.setDt_fb (b : Byte) : (s.setDt b).fb = s.fb := rfl
@[simp] theorem State.setDt_dt (b : Byte) : (s.setDt b).dt = b := rfl
@[simp] theorem State.setDt_st (b : Byte) : (s.setDt b).st = s.st := rfl
@[simp] theorem State.setDt_mem (b : Byte) : (s.setDt b).mem = s.mem := rfl
@[simp] theorem State.setDt_err (b : Byte) : (s.setDt b).err = s.err := rfl
@[simp] theorem State.setDt_wait (b : Byte) : (s.setDt b).wait = s.wait := rfl
@[simp] theorem State.setDt_inputs (b : Byte) : (s.setDt b).inputs = s.inputs := rfl
@[simp] theorem State.setDt_script (b : Byte) : (s.setDt b).script = s.script := rfl
@[simp] theorem State.setDt_freeIndex (b : Byte) : (s.setDt b).freeIndex = s.freeIndex := rfl
@[simp] theorem State.setDt_loadIssued (b : Byte) : (s.setDt b).loadIssued = s.loadIssued := rfl

/-! ### `State.setSt` -/

@[simp] theorem State.setSt_v (b : Byte) : (s.setSt b).v = s.v := rfl
@[simp] theorem State.setSt_pc (b : Byte) : (s.setSt b).pc = s.pc := rfl
@[simp] theorem State.setSt_i (b : Byte) : (s.setSt b).i = s.i := rfl
@[simp] theorem State.setSt_stk (b : Byte) : (s.setSt b).stk = s.stk := rfl
@[simp] theorem State.setSt_sp (b : Byte) : (s.setSt b).sp = s.sp := rfl
@[simp] theorem State.setSt_fb (b : Byte) : (s.setSt b).fb = s.fb := rfl
@[simp] theorem State.setSt_dt (b : Byte) : (s.setSt b).dt = s.dt := rfl
@[simp] theorem State.setSt_st (b : Byte) : (s.setSt b).st = b := rfl
@[simp] theorem State.setSt_mem (b : Byte) : (s.setSt b).mem = s.mem := rfl
@[simp] theorem State.setSt_err (b : Byte) : (s.setSt b).err = s.err := rfl
@[simp] theorem State.setSt_wait (b : Byte) : (s.setSt b).wait = s.wait := rfl
@[simp] theorem State.setSt_inputs (b : Byte) : (s.setSt b).inputs = s.inputs := rfl
@[simp] theorem State.setSt_script (b : Byte) : (s.setSt b).script = s.script := rfl
@[simp] theorem State.setSt_freeIndex (b : Byte) : (s.setSt b).freeIndex = s.freeIndex := rfl
@[simp] theorem State.setSt_loadIssued (b : Byte) : (s.setSt b).loadIssued = s.loadIssued := rfl

/-! ### `State.setFb` -/

@[simp] theorem State.setFb_v (d : Display) : (s.setFb d).v = s.v := rfl
@[simp] theorem State.setFb_pc (d : Display) : (s.setFb d).pc = s.pc := rfl
@[simp] theorem State.setFb_i (d : Display) : (s.setFb d).i = s.i := rfl
@[simp] theorem State.setFb_stk (d : Display) : (s.setFb d).stk = s.stk := rfl
@[simp] theorem State.setFb_sp (d : Display) : (s.setFb d).sp = s.sp := rfl
@[simp] theorem State.setFb_fb (d : Display) : (s.setFb d).fb = d := rfl
@[simp] theorem State.setFb_dt (d : Display) : (s.setFb d).dt = s.dt := rfl
@[simp] theorem State.setFb_st (d : Display) : (s.setFb d).st = s.st := rfl
@[simp] theorem State.setFb_mem (d : Display) : (s.setFb d).mem = s.mem := rfl
@[simp] theorem State.setFb_err (d : Display) : (s.setFb d).err = s.err := rfl
@[simp] theorem State.setFb_wait (d : Display) : (s.setFb d).wait = s.wait := rfl
@[simp] theorem State.setFb_inputs (d : Display) : (s.setFb d).inputs = s.inputs := rfl
@[simp] theorem State.setFb_script (d : Display) : (s.setFb d).script = s.script := rfl
@[simp] theorem State.setFb_freeIndex (d : Display) : (s.setFb d).freeIndex = s.freeIndex := rfl
@[simp] theorem State.setFb_loadIssued (d : Display) : (s.setFb d).loadIssued = s.loadIssued := rfl

/-! ### `State.setMem` -/

@[simp] theorem State.setMem_v (m : Memory) : (s.setMem m).v = s.v := rfl
@[simp] theorem State.setMem_pc (m : Memory) : (s.setMem m).pc = s.pc := rfl
@[simp] theorem State.setMem_i (m : Memory) : (s.setMem m).i = s.i := rfl
@[simp] theorem State.setMem_stk (m : Memory) : (s.setMem m).stk = s.stk := rfl
@[simp] theorem State.setMem_sp (m : Memory) : (s.setMem m).sp = s.sp := rfl
@[simp] theorem State.setMem_fb (m : Memory) : (s.setMem m).fb = s.fb := rfl
@[simp] theorem State.setMem_dt (m : Memory) : (s.setMem m).dt = s.dt := rfl
@[simp] theorem State.setMem_st (m : Memory) : (s.setMem m).st = s.st := rfl
@[simp] theorem State.setMem_mem (m : Memory) : (s.setMem m).mem = m := rfl
@[simp] theorem State.setMem_err (m : Memory) : (s.setMem m).err = s.err := rfl
@[simp] theorem State.setMem_wait (m : Memory) : (s.setMem m).wait = s.wait := rfl
@[simp] theorem State.setMem_inputs (m : Memory) : (s.setMem m).inputs = s.inputs := rfl
@[simp] theorem State.setMem_script (m : Memory) : (s.setMem m).script = s.script := rfl
@[simp] theorem State.setMem_freeIndex (m : Memory) : (s.setMem m).freeIndex = s.freeIndex := rfl
@[simp] theorem State.setMem_loadIssued (m : Memory) : (s.setMem m).loadIssued = s.loadIssued := rfl

/-! ### `State.writeData` -/

@[simp] theorem State.writeData_v (bs : List Byte) : (s.writeData bs).v = s.v := rfl
@[simp] theorem State.writeData_pc (bs : List Byte) : (s.writeData bs).pc = s.pc := rfl
@[simp] theorem State.writeData_i (bs : List Byte) : (s.writeData bs).i = s.i := rfl
@[simp] theorem State.writeData_stk (bs : List Byte) : (s.writeData bs).stk = s.stk := rfl
@[simp] theorem State.writeData_sp (bs : List Byte) : (s.writeData bs).sp = s.sp := rfl
@[simp] theorem State.writeData_fb (bs : List Byte) : (s.writeData bs).fb = s.fb := rfl
@[simp] theorem State.writeData_dt (bs : List Byte) : (s.writeData bs).dt = s.dt := rfl
@[simp] theorem State.writeData_st (bs : List Byte) : (s.writeData bs).st = s.st := rfl
@[simp] theorem State.writeData_mem (bs : List Byte) : (s.writeData bs).mem = s.mem.writeBytes (s.dataAddr 0) bs := rfl
@[simp] theorem State.writeData_err (bs : List Byte) : (s.writeData bs).err = s.err := rfl
@[simp] theorem State.writeData_wait (bs : List Byte) : (s.writeData bs).wait = s.wait := rfl
@[simp] theorem State.writeData_inputs (bs : List Byte) : (s.writeData bs).inputs = s.inputs := rfl
@[simp] theorem State.writeData_script (bs : List Byte) : (s.writeData bs).script = s.script := rfl
@[simp] theorem State.writeData_freeIndex (bs : List Byte) : (s.writeData bs).freeIndex = s.freeIndex := rfl
@[simp] theorem State.writeData_loadIssued (bs : List Byte) : (s.writeData bs).loadIssued = s.loadIssued := rfl

/-! ### `State.setWait` -/

@[simp] theorem State.setWait_v (b : Bool) : (s.setWait b).v = s.v := rfl
@[simp] theorem State.setWait_pc (b : Bool) : (s.setWait b).pc = s.pc := rfl
@[simp] theorem State.setWait_i (b : Bool) : (s.setWait b).i = s.i := rfl
@[simp] theorem State.setWait_stk (b : Bool) : (s.setWait b).stk = s.stk := rfl
@[simp] theorem State.setWait_sp (b : Bool) : (s.setWait b).sp = s.sp := rfl
@[simp] theorem State.setWait_fb (b : Bool) : (s.setWait b).fb = s.fb := rfl
@[simp] theorem State.setWait_dt (b : Bool) : (s.setWait b).dt = s.dt := rfl
@[simp] theorem State.setWait_st (b : Bool) : (s.setWait b).st = s.st := rfl
@[simp] theorem State.setWait_mem (b : Bool) : (s.setWait b).mem = s.mem := rfl
@[simp] theorem State.setWait_err (b : Bool) : (s.setWait b).err = s.err := rfl
@[simp] theorem State.setWait_wait (b : Bool) : (s.setWait b).wait = b := rfl
@[simp] theorem State.setWait_inputs (b : Bool) : (s.setWait b).inputs = s.inputs := rfl
@[simp] theorem State.setWait_script (b : Bool) : (s.setWait b).script = s.script := rfl
@[simp] theorem State.setWait_freeIndex (b : Bool) : (s.setWait b).freeIndex = s.freeIndex := rfl
@[simp] theorem State.setWait_loadIssued (b : Bool) : (s.setWait b).loadIssued = s.loadIssued := rfl

/-! ### `State.sample` -/

@[simp] theorem State.sample_v (inp : StepInput) : (s.sample inp).v = s.v := rfl
@[simp] theorem State.sample_pc (inp : StepInput) : (s.sample inp).pc = s.pc := rfl
@[simp] theorem State.sample_i (inp : StepInput) : (s.sample inp).i = s.i := rfl
@[simp] theorem State.sample_stk (inp : StepInput) : (s.sample inp).stk = s.stk := rfl
@[simp] theorem State.sample_sp (inp : StepInput) : (s.sample inp).sp = s.sp := rfl
@[simp] theorem State.sample_fb (inp : StepInput) : (s.sample inp).fb = s.fb := rfl
@[simp] theorem State.sample_dt (inp : StepInput) : (s.sample inp).dt = s.dt := rfl
@[simp] theorem State.sample_st (inp : StepInput) : (s.sample inp).st = s.st := rfl
@[simp] theorem State.sample_mem (inp : StepInput) : (s.sample inp).mem = s.mem := rfl
@[simp] theorem State.sample_err (inp : StepInput) : (s.sample inp).err = s.err := rfl
@[simp] theorem State.sample_wait (inp : StepInput) : (s.sample inp).wait = s.wait := rfl
@[simp] theorem State.sample_inputs (inp : StepInput) : (s.sample inp).inputs = inp := rfl
@[simp] theorem State.sample_script (inp : StepInput) : (s.sample inp).script = s.script := rfl
@[simp] theorem State.sample_freeIndex (inp : StepInput) : (s.sample inp).freeIndex = s.freeIndex := rfl
@[simp] theorem State.sample_loadIssued (inp : StepInput) : (s.sample inp).loadIssued = s.loadIssued := rfl

/-! ### `State.release` -/

@[simp] theorem State.release_v : s.release.v = s.v := rfl
@[simp] theorem State.release_pc : s.release.pc = s.pc := rfl
@[simp] theorem State.release_i : s.release.i = s.i := rfl
@[simp] theorem State.release_stk : s.release.stk = s.stk := rfl
@[simp] theorem State.release_sp : s.release.sp = s.sp := rfl
@[simp] theorem State.release_fb : s.release.fb = s.fb := rfl
@[simp] theorem State.release_dt : s.release.dt = s.dt := rfl
@[simp] theorem State.release_st : s.release.st = s.st := rfl
@[simp] theorem State.release_mem : s.release.mem = s.mem := rfl
@[simp] theorem State.release_err : s.release.err = s.err := rfl
@[simp] theorem State.release_wait : s.release.wait = s.wait := rfl
@[simp] theorem State.release_script : s.release.script = s.script := rfl
@[simp] theorem State.release_freeIndex : s.release.freeIndex = s.freeIndex := rfl
@[simp] theorem State.release_loadIssued : s.release.loadIssued = s.loadIssued := rfl
@[simp] theorem State.release_inputs : s.release.inputs = .absent := rfl

/-! ### `State.onTick`, `State.onReset`, `State.loaded` -/

@[simp] theorem State.onTick_v : (s.onTick).v = s.v := rfl
@[simp] theorem State.onTick_pc : (s.onTick).pc = s.pc := rfl
@[simp] theorem State.onTick_i : (s.onTick).i = s.i := rfl
@[simp] theorem State.onTick_stk : (s.onTick).stk = s.stk := rfl
@[simp] theorem State.onTick_sp : (s.onTick).sp = s.sp := rfl
@[simp] theorem State.onTick_fb : (s.onTick).fb = s.fb := rfl
@[simp] theorem State.onTick_dt : (s.onTick).dt = countDown s.dt := rfl
@[simp] theorem State.onTick_st : (s.onTick).st = countDown s.st := rfl
@[simp] theorem State.onTick_mem : (s.onTick).mem = s.mem := rfl
@[simp] theorem State.onTick_err : (s.onTick).err = s.err := rfl
@[simp] theorem State.onTick_wait : (s.onTick).wait = s.wait := rfl
@[simp] theorem State.onTick_inputs : (s.onTick).inputs = s.inputs := rfl
@[simp] theorem State.onTick_script : (s.onTick).script = s.script := rfl
@[simp] theorem State.onTick_freeIndex : (s.onTick).freeIndex = s.freeIndex := rfl
@[simp] theorem State.onTick_loadIssued : (s.onTick).loadIssued = s.loadIssued := rfl

@[simp] theorem State.onReset_v : (s.onReset).v = State.reset.v := rfl
@[simp] theorem State.onReset_pc : (s.onReset).pc = State.reset.pc := rfl
@[simp] theorem State.onReset_i : (s.onReset).i = State.reset.i := rfl
@[simp] theorem State.onReset_stk : (s.onReset).stk = State.reset.stk := rfl
@[simp] theorem State.onReset_sp : (s.onReset).sp = State.reset.sp := rfl
@[simp] theorem State.onReset_fb : (s.onReset).fb = State.reset.fb := rfl
@[simp] theorem State.onReset_dt : (s.onReset).dt = State.reset.dt := rfl
@[simp] theorem State.onReset_st : (s.onReset).st = State.reset.st := rfl
@[simp] theorem State.onReset_mem : (s.onReset).mem = State.reset.mem := rfl
@[simp] theorem State.onReset_err : (s.onReset).err = State.reset.err := rfl
@[simp] theorem State.onReset_wait : (s.onReset).wait = State.reset.wait := rfl
@[simp] theorem State.onReset_inputs : (s.onReset).inputs = State.reset.inputs := rfl
@[simp] theorem State.onReset_script : (s.onReset).script = s.script := rfl
@[simp] theorem State.onReset_freeIndex : (s.onReset).freeIndex = s.freeIndex := rfl
@[simp] theorem State.onReset_loadIssued : (s.onReset).loadIssued = State.reset.loadIssued := rfl

@[simp] theorem State.loaded_v (img : List Byte) : (s.loaded img).v = s.v := rfl
@[simp] theorem State.loaded_pc (img : List Byte) : (s.loaded img).pc = 0x200#16 := rfl
@[simp] theorem State.loaded_i (img : List Byte) : (s.loaded img).i = s.i := rfl
@[simp] theorem State.loaded_stk (img : List Byte) : (s.loaded img).stk = s.stk := rfl
@[simp] theorem State.loaded_sp (img : List Byte) : (s.loaded img).sp = s.sp := rfl
@[simp] theorem State.loaded_fb (img : List Byte) : (s.loaded img).fb = s.fb := rfl
@[simp] theorem State.loaded_dt (img : List Byte) : (s.loaded img).dt = s.dt := rfl
@[simp] theorem State.loaded_st (img : List Byte) : (s.loaded img).st = s.st := rfl
@[simp] theorem State.loaded_mem (img : List Byte) : (s.loaded img).mem = s.mem.writeBytes Config.progBase img := rfl
@[simp] theorem State.loaded_err (img : List Byte) : (s.loaded img).err = s.err := rfl
@[simp] theorem State.loaded_wait (img : List Byte) : (s.loaded img).wait = s.wait := rfl
@[simp] theorem State.loaded_inputs (img : List Byte) : (s.loaded img).inputs = s.inputs := rfl
@[simp] theorem State.loaded_script (img : List Byte) : (s.loaded img).script = s.script := rfl
@[simp] theorem State.loaded_freeIndex (img : List Byte) : (s.loaded img).freeIndex = s.freeIndex := rfl
@[simp] theorem State.loaded_loadIssued (img : List Byte) : (s.loaded img).loadIssued = s.loadIssued := rfl

end Sys2Proof.Machine
end

