-- ==== Sys2Proof/Laws/Ops.lean ====
section
/-!
SUPPORT. One lemma per shared operation that says once everything it can do: registers, the call stack, the bounds
test, raising, fetching.
-/

namespace Sys2Proof.Machine

variable (s : State)

/-! ### Registers -/

theorem State.readV_eq (x : Reg) : s.readV x = s.v[x] := rfl

theorem State.readV_writeV (x r : Reg) (b : Byte) : (s.writeV x b).readV r = if r = x then b else s.readV r := by
  simp only [State.readV, State.writeV, Fin.getElem_fin, Vector.getElem_set, Fin.ext_iff, eq_comm]

/-- Writing a flag and then a result: with x = 0xF the result stays. -/
theorem State.readV_writeFlagged (x r : Reg) (f b : Byte) :
    (s.writeFlagged x f b).readV r = if r = x then b else if r = Reg.vf then f else s.readV r := by
  simp only [State.writeFlagged, State.readV_writeV]

theorem State.readV_loadV (x r : Reg) (bs : List Byte) :
    (s.loadV x bs).readV r = if r ≤ x then bs.getD r 0 else s.readV r := by
  simp [State.readV, State.loadV]

@[simp] theorem State.length_listV (x : Reg) : (s.listV x).length = x.val + 1 := by
  have := x.isLt
  simp only [State.listV, List.length_take, Vector.length_toList]; omega

theorem State.getD_listV {x r : Reg} (h : r ≤ x) : (s.listV x).getD r.val 0 = s.v[r] := by
  have hr : r.val < x.val + 1 := Nat.lt_succ_of_le h
  have := r.isLt
  simp [State.listV, List.getD_eq_getElem?_getD, hr]

/-- A vector written at one register reads as before at every other. -/
theorem getElem_set_ne {v : Vector Byte 16} {x r : Reg} {b : Byte} (h : r ≠ x) : (v.set x b)[r] = v[r] := by
  have hne : x.val ≠ r.val := fun e => h (Fin.ext e.symm)
  simp [hne]

/-! ### Call stack -/

theorem State.push_full (h : s.sp.val = 16) (a : Word) : s.push a = none := by simp [State.push, h]

theorem State.push_room (h : s.sp.val < 16) (a : Word) :
    s.push a = some { s with stk := s.stk.set s.sp.val a h, sp := ⟨s.sp.val + 1, Nat.succ_lt_succ h⟩ } := by
  simp [State.push, h]

theorem State.pop_empty (h : s.sp.val = 0) : s.pop = none := by
  unfold State.pop
  split
  · rfl
  · next hd => rw [hd] at h; exact absurd h (Nat.succ_ne_zero _)

theorem State.pop_some {d : Nat} (h : s.sp.val = d + 1) (hd : d < 16) :
    s.pop = some (s.stk[d], { s with sp := ⟨d, Nat.lt_succ_of_lt hd⟩ }) := by
  unfold State.pop
  split
  · next h0 => rw [h0] at h; exact absurd h (by simp)
  · next e he hs =>
    rw [hs] at h
    obtain rfl : e = d := Nat.succ.inj h
    rfl

/-- A push that fails is at full depth; one that does not changes STK at SP and SP, and nothing else. -/
theorem State.push_cases (a : Word) :
    (s.sp.val = 16 ∧ s.push a = none) ∨
      ∃ h : s.sp.val < 16,
        s.push a = some { s with stk := s.stk.set s.sp.val a h, sp := ⟨s.sp.val + 1, Nat.succ_lt_succ h⟩ } := by
  rcases Nat.lt_or_ge s.sp.val 16 with h | h
  · exact .inr ⟨h, s.push_room h a⟩
  · have := s.sp.isLt
    exact .inl ⟨by omega, s.push_full (by omega) a⟩

/-- A pop that fails is at zero depth; one that does not gives the entry below SP and changes SP only. -/
theorem State.pop_cases :
    (s.sp.val = 0 ∧ s.pop = none) ∨
      ∃ d, ∃ hd : d < 16, s.sp.val = d + 1 ∧ s.pop = some (s.stk[d], { s with sp := ⟨d, Nat.lt_succ_of_lt hd⟩ }) := by
  rcases Nat.eq_zero_or_pos s.sp.val with h | h
  · exact .inl ⟨h, s.pop_empty h⟩
  · have := s.sp.isLt
    exact .inr ⟨s.sp.val - 1, by omega, by omega, s.pop_some (by omega) (by omega)⟩

/-! ### Data accesses -/

/-- The bounds test (20_memory.md R67): no address, or the largest one below 4096. -/
theorem State.accessFits_iff (n : Nat) : s.accessFits n = true ↔ n = 0 ∨ s.i.toNat + (n - 1) < 4096 := by
  rw [State.accessFits, Bool.or_eq_true, beq_iff_eq]
  exact or_congr Iff.rfl decide_eq_true_iff

theorem State.accessFits_end {n : Nat} (h : s.accessFits (n + 1) = true) : s.i.toNat + (n + 1) ≤ 4096 := by
  rcases (s.accessFits_iff _).1 h with h | h <;> omega

/-! ### Raising and fetching -/

theorem raise_eq (e : ErrCode) : raise e s = .next { s with err := e } := rfl

/-- Fetch looks at PC and Memory only. -/
theorem State.fetch_congr {s t : State} (hp : s.pc = t.pc) (hm : s.mem = t.mem) : s.fetch = t.fetch := by
  simp [State.fetch, hp, hm]

end Sys2Proof.Machine
end

