-- ==== Sys2Proof/Laws/PerInstr.lean ====
section
/-!
SUPPORT. Laws made per instruction. `EncodesLegal`: the word of an instruction is not in the spec's list of illegal
words (spec/30_encoding.md R98).
-/

namespace Sys2Proof.Laws.EncodesLegal

/-- The word of the instruction is legal. -/
def Statement (i : Instr) : Prop := legalWord (encode i) = true

/-- The family digit of a word is its top nibble. -/
theorem top_eq (op : OpWord) : op.toNat / 4096 = (fieldTop op).toNat := by
  have := op.isLt
  simp [fieldTop, BitVec.extractLsb'_toNat, Nat.shiftRight_eq_div_pow]
  omega

theorem low_eq (op : OpWord) : op.toNat % 16 = (fieldN op).toNat := by
  simp [fieldN]

theorem kk_eq (op : OpWord) : op.toNat % 256 = (fieldKk op).toNat := by
  simp [fieldKk]

/-- The list of illegal words, read on the fields. -/
theorem legalWord_fields (op : OpWord) :
    legalWord op =
      if (fieldTop op).toNat = 0x0 then op.toNat == 0x00E0 || op.toNat == 0x00EE
      else if (fieldTop op).toNat = 0x8 then !([0x8, 0x9, 0xA, 0xB, 0xC, 0xD, 0xF].contains (fieldN op).toNat)
      else if (fieldTop op).toNat = 0xE then [0x9E, 0xA1].contains (fieldKk op).toNat
      else if (fieldTop op).toNat = 0xF then
        [0x07, 0x0A, 0x15, 0x18, 0x1E, 0x29, 0x33, 0x55, 0x65].contains (fieldKk op).toNat
      else true := by
  rw [legalWord, top_eq, low_eq, kk_eq]

theorem cls : Statement .cls := by
  show legalWord _ = true
  decide
theorem ret : Statement .ret := by
  show legalWord _ = true
  decide
theorem jp (nnn : Imm12) : Statement (.jp nnn) := by
  simp [Statement, legalWord_fields, encode]
theorem call (nnn : Imm12) : Statement (.call nnn) := by
  simp [Statement, legalWord_fields, encode]
theorem seImm (x : Reg) (kk : Byte) : Statement (.seImm x kk) := by
  simp [Statement, legalWord_fields, encode]
theorem sneImm (x : Reg) (kk : Byte) : Statement (.sneImm x kk) := by
  simp [Statement, legalWord_fields, encode]
theorem seReg (x y : Reg) (u : Nibble) : Statement (.seReg x y u) := by
  simp [Statement, legalWord_fields, encode]
theorem ldImm (x : Reg) (kk : Byte) : Statement (.ldImm x kk) := by
  simp [Statement, legalWord_fields, encode]
theorem addImm (x : Reg) (kk : Byte) : Statement (.addImm x kk) := by
  simp [Statement, legalWord_fields, encode]
theorem ldReg (x y : Reg) : Statement (.ldReg x y) := by
  simp [Statement, legalWord_fields, encode]
theorem orReg (x y : Reg) : Statement (.orReg x y) := by
  simp [Statement, legalWord_fields, encode]
theorem andReg (x y : Reg) : Statement (.andReg x y) := by
  simp [Statement, legalWord_fields, encode]
theorem xorReg (x y : Reg) : Statement (.xorReg x y) := by
  simp [Statement, legalWord_fields, encode]
theorem addReg (x y : Reg) : Statement (.addReg x y) := by
  simp [Statement, legalWord_fields, encode]
theorem sub (x y : Reg) : Statement (.sub x y) := by
  simp [Statement, legalWord_fields, encode]
theorem shr (x y : Reg) : Statement (.shr x y) := by
  simp [Statement, legalWord_fields, encode]
theorem subn (x y : Reg) : Statement (.subn x y) := by
  simp [Statement, legalWord_fields, encode]
theorem shl (x y : Reg) : Statement (.shl x y) := by
  simp [Statement, legalWord_fields, encode]
theorem sneReg (x y : Reg) (u : Nibble) : Statement (.sneReg x y u) := by
  simp [Statement, legalWord_fields, encode]
theorem ldI (nnn : Imm12) : Statement (.ldI nnn) := by
  simp [Statement, legalWord_fields, encode]
theorem jpV0 (nnn : Imm12) : Statement (.jpV0 nnn) := by
  simp [Statement, legalWord_fields, encode]
theorem rnd (x : Reg) (kk : Byte) : Statement (.rnd x kk) := by
  simp [Statement, legalWord_fields, encode]
theorem drw (x y : Reg) (n : Nibble) : Statement (.drw x y n) := by
  simp [Statement, legalWord_fields, encode]
theorem skp (x : Reg) : Statement (.skp x) := by
  simp [Statement, legalWord_fields, encode]
theorem sknp (x : Reg) : Statement (.sknp x) := by
  simp [Statement, legalWord_fields, encode]
theorem ldVxDt (x : Reg) : Statement (.ldVxDt x) := by
  simp [Statement, legalWord_fields, encode]
theorem ldVxK (x : Reg) : Statement (.ldVxK x) := by
  simp [Statement, legalWord_fields, encode]
theorem ldDtVx (x : Reg) : Statement (.ldDtVx x) := by
  simp [Statement, legalWord_fields, encode]
theorem ldStVx (x : Reg) : Statement (.ldStVx x) := by
  simp [Statement, legalWord_fields, encode]
theorem addI (x : Reg) : Statement (.addI x) := by
  simp [Statement, legalWord_fields, encode]
theorem ldF (x : Reg) : Statement (.ldF x) := by
  simp [Statement, legalWord_fields, encode]
theorem ldBcd (x : Reg) : Statement (.ldBcd x) := by
  simp [Statement, legalWord_fields, encode]
theorem stRegs (x : Reg) : Statement (.stRegs x) := by
  simp [Statement, legalWord_fields, encode]
theorem ldRegs (x : Reg) : Statement (.ldRegs x) := by
  simp [Statement, legalWord_fields, encode]

end Sys2Proof.Laws.EncodesLegal
end

