-- ==== Sys2Proof/Laws/Screen.lean ====
section
/-!
SUPPORT. The laws of the Display Buffer: a pixel after a pixel write, and what drawing a sprite does to every pixel
and to the collision flag.
-/

namespace Sys2Proof.Machine

/-! ### One pixel -/

theorem Display.pixel_setPixel (d : Display) (px qx : Fin 64) (py qy : Fin 32) (b : Bool) :
    (d.setPixel px py b).pixel qx qy = if qx = px ∧ qy = py then b else d.pixel qx qy := by
  simp only [Display.pixel, Display.setPixel, Fin.getElem_fin, Vector.getElem_set, Fin.ext_iff]
  by_cases hx : qx.val = px.val
  · have : qx = px := Fin.ext hx
    subst this
    simp [Vector.getElem_set, eq_comm]
  · simp [hx, Ne.symm hx]

@[simp] theorem Display.pixel_empty (px : Fin 64) (py : Fin 32) : Display.empty.pixel px py = false := by
  simp [Display.pixel, Display.empty]

/-- Two buffers with the same pixels are the same buffer. -/
theorem Display.ext_pixel {d e : Display} (h : ∀ px py, d.pixel px py = e.pixel px py) : d = e := by
  apply Vector.ext
  intro i hi
  apply Vector.ext
  intro j hj
  exact h ⟨i, hi⟩ ⟨j, hj⟩

/-! ### Where a sprite bit lands -/

/-- The sprite column that wraps onto a screen column. -/
def spriteColumn (ox : Nat) (qx : Fin 64) : Nat := (qx.val + 64 - ox % 64) % 64

/-- The sprite row that wraps onto a screen row. -/
def spriteRow (oy : Nat) (qy : Fin 32) : Nat := (qy.val + 32 - oy % 32) % 32

theorem column_eq_iff {ox j : Nat} {qx : Fin 64} (hj : j < 64) :
    qx = column (ox + j) ↔ j = spriteColumn ox qx := by
  have := qx.isLt
  simp only [column, spriteColumn, Fin.ext_iff, Fin.val_ofNat]
  omega

theorem row_eq_iff {oy j : Nat} {qy : Fin 32} (hj : j < 32) : qy = row (oy + j) ↔ j = spriteRow oy qy := by
  have := qy.isLt
  simp only [row, spriteRow, Fin.ext_iff, Fin.val_ofNat]
  omega

/-! ### One sprite row -/

/-- Whether the bits `bit`, ..., `bit + n − 1` of a sprite row have a 1 on a pixel. -/
def bitsCover (ox oy : Nat) (sprite : Byte) (bit n : Nat) (qx : Fin 64) (qy : Fin 32) : Bool :=
  decide (qy = row oy) && decide (bit ≤ spriteColumn ox qx) && decide (spriteColumn ox qx < bit + n) &&
    sprite.getLsbD (7 - spriteColumn ox qx)

theorem bitsCover_succ {ox oy : Nat} {sprite : Byte} {bit n : Nat} {qx : Fin 64} {qy : Fin 32} (hb : bit < 64) :
    bitsCover ox oy sprite bit (n + 1) qx qy =
      ((decide (qx = column (ox + bit) ∧ qy = row oy) && sprite.getLsbD (7 - bit)) ||
        bitsCover ox oy sprite (bit + 1) n qx qy) := by
  by_cases hx : bit = spriteColumn ox qx
  · by_cases hy : qy = row oy
    · have hq : (qx = column (ox + bit)) = True := eq_true ((column_eq_iff hb).2 hx)
      simp [bitsCover, ← hx, hy, hq]
    · simp [bitsCover, hy]
  · have hx' : ¬ qx = column (ox + bit) := fun h => hx ((column_eq_iff hb).1 h)
    have h1 : (bit ≤ spriteColumn ox qx) = (bit + 1 ≤ spriteColumn ox qx) := propext ⟨fun h => by omega, fun h => by omega⟩
    have h2 : bit + (n + 1) = bit + 1 + n := by omega
    simp only [bitsCover, hx', h1, h2, false_and, decide_false, Bool.false_and, Bool.false_or]

theorem bitsCover_next {ox oy : Nat} {sprite : Byte} {bit n : Nat} {qx : Fin 64} {qy : Fin 32} (hb : bit < 64)
    (h : qx = column (ox + bit)) : bitsCover ox oy sprite (bit + 1) n qx qy = false := by
  have := (column_eq_iff hb).1 h
  simp [bitsCover, ← this]

theorem pixel_drawPixel (px qx : Fin 64) (py qy : Fin 32) (p : Bool) (g : Drawing) :
    (drawPixel px py p g).1.pixel qx qy = (g.1.pixel qx qy ^^ (decide (qx = px ∧ qy = py) && p)) := by
  rw [drawPixel, Display.pixel_setPixel]
  split
  · next h => obtain ⟨rfl, rfl⟩ := h; simp
  · next h => simp [h]

theorem collision_drawPixel (px : Fin 64) (py : Fin 32) (p : Bool) (g : Drawing) :
    (drawPixel px py p g).2 = (g.2 || (g.1.pixel px py && p)) := rfl

/-- Drawing bits of a row: every pixel XORed with the bit that covers it. -/
theorem pixel_drawBits {ox oy : Nat} {sprite : Byte} {bit n : Nat} (hb : bit + n ≤ 64) (g : Drawing)
    (qx : Fin 64) (qy : Fin 32) :
    (drawBits ox oy sprite bit n g).1.pixel qx qy = (g.1.pixel qx qy ^^ bitsCover ox oy sprite bit n qx qy) := by
  induction n generalizing bit g with
  | zero =>
    have : bitsCover ox oy sprite bit 0 qx qy = false := by
      by_cases h : bit ≤ spriteColumn ox qx
      · simp [bitsCover, show ¬ spriteColumn ox qx < bit by omega]
      · simp [bitsCover, h]
    simp [drawBits, this]
  | succ n ih =>
    rw [drawBits, ih (by omega), pixel_drawPixel, bitsCover_succ (by omega)]
    by_cases hx : qx = column (ox + bit)
    · simp [bitsCover_next (by omega) hx]
    · simp [hx]

/-- Drawing bits of a row: a collision is one from before, or a covered pixel that was on. -/
theorem collision_drawBits {ox oy : Nat} {sprite : Byte} {bit n : Nat} (hb : bit + n ≤ 64) (g : Drawing) :
    (drawBits ox oy sprite bit n g).2 = true ↔
      g.2 = true ∨ ∃ qx qy, g.1.pixel qx qy = true ∧ bitsCover ox oy sprite bit n qx qy = true := by
  induction n generalizing bit g with
  | zero =>
    simp only [drawBits, bitsCover, Bool.and_eq_true, decide_eq_true_eq]
    constructor
    · exact .inl
    · rintro (h | ⟨qx, qy, _, h⟩)
      · exact h
      · omega
  | succ n ih =>
    rw [drawBits, ih (by omega)]
    simp only [pixel_drawPixel, bitsCover_succ (bit := bit) (n := n) (show bit < 64 by omega),
      collision_drawPixel, Bool.or_eq_true, Bool.and_eq_true, decide_eq_true_eq]
    constructor
    · rintro ((h | ⟨h, hp⟩) | ⟨qx, qy, h, hc⟩)
      · exact .inl h
      · exact .inr ⟨_, _, h, .inl ⟨⟨rfl, rfl⟩, hp⟩⟩
      · have hx : ¬ qx = column (ox + bit) := fun h => by simp [bitsCover_next (by omega) h] at hc
        exact .inr ⟨qx, qy, by simpa [hx] using h, .inr hc⟩
    · rintro (h | ⟨qx, qy, h, ⟨⟨rfl, rfl⟩, hp⟩ | hc⟩)
      · exact .inl (.inl h)
      · exact .inl (.inr ⟨h, hp⟩)
      · have hx : ¬ qx = column (ox + bit) := fun h => by simp [bitsCover_next (by omega) h] at hc
        exact .inr ⟨qx, qy, by simpa [hx] using h, hc⟩

/-! ### A whole sprite -/

/-- Whether a sprite has a 1 on a pixel. -/
def rowsCover (ox oy : Nat) (sprite : List Byte) (qx : Fin 64) (qy : Fin 32) : Bool :=
  decide (spriteRow oy qy < sprite.length) && decide (spriteColumn ox qx < 8) &&
    (sprite.getD (spriteRow oy qy) 0).getLsbD (7 - spriteColumn ox qx)

theorem spriteRow_succ {oy : Nat} {qy : Fin 32} :
    spriteRow (oy + 1) qy = if spriteRow oy qy = 0 then 31 else spriteRow oy qy - 1 := by
  have := qy.isLt
  unfold spriteRow
  by_cases h : (qy.val + 32 - oy % 32) % 32 = 0
  · rw [if_pos h]; omega
  · rw [if_neg h]; omega

theorem rowsCover_cons {ox oy : Nat} {b : Byte} {sprite : List Byte} {qx : Fin 64} {qy : Fin 32}
    (h : sprite.length < 31) :
    rowsCover ox oy (b :: sprite) qx qy = (bitsCover ox oy b 0 8 qx qy || rowsCover ox (oy + 1) sprite qx qy) := by
  have hrow : (qy = row oy) = (spriteRow oy qy = 0) :=
    propext ⟨fun h => ((row_eq_iff (by decide)).1 h).symm, fun h => (row_eq_iff (oy := oy) (by decide)).2 h.symm⟩
  simp only [rowsCover, bitsCover, spriteRow_succ, hrow]
  cases hr : spriteRow oy qy with
  | zero => simp [show ¬ 31 < sprite.length by omega]
  | succ k => simp

theorem bitsCover_row {ox oy : Nat} {b : Byte} {sprite : List Byte} {qx : Fin 64} {qy : Fin 32}
    (hl : sprite.length < 31) (h : bitsCover ox oy b 0 8 qx qy = true) :
    rowsCover ox (oy + 1) sprite qx qy = false := by
  have hrow : qy = row oy := by simp only [bitsCover, Bool.and_eq_true, decide_eq_true_eq] at h; exact h.1.1.1
  have h0 := (row_eq_iff (j := 0) (by decide)).1 hrow
  simp [rowsCover, spriteRow_succ, ← h0, show ¬ 31 < sprite.length by omega]

/-- Drawing a sprite of fewer than 32 rows: every pixel XORed with the sprite bit that covers it. -/
theorem pixel_drawRows {ox oy : Nat} {sprite : List Byte} (hl : sprite.length < 32) (g : Drawing)
    (qx : Fin 64) (qy : Fin 32) :
    (drawRows ox oy sprite g).1.pixel qx qy = (g.1.pixel qx qy ^^ rowsCover ox oy sprite qx qy) := by
  induction sprite generalizing oy g with
  | nil => simp [drawRows, rowsCover]
  | cons b sprite ih =>
    simp only [List.length_cons] at hl
    rw [drawRows, ih (by omega), pixel_drawBits (by decide), rowsCover_cons (by omega)]
    cases h : bitsCover ox oy b 0 8 qx qy with
    | false => simp
    | true => simp [bitsCover_row (show sprite.length < 31 by omega) h]

/-- Drawing a sprite of fewer than 32 rows: a collision is one from before, or a covered pixel that was on. -/
theorem collision_drawRows {ox oy : Nat} {sprite : List Byte} (hl : sprite.length < 32) (g : Drawing) :
    (drawRows ox oy sprite g).2 = true ↔
      g.2 = true ∨ ∃ qx qy, g.1.pixel qx qy = true ∧ rowsCover ox oy sprite qx qy = true := by
  induction sprite generalizing oy g with
  | nil => simp [drawRows, rowsCover]
  | cons b sprite ih =>
    simp only [List.length_cons] at hl
    rw [drawRows, ih (by omega), collision_drawBits (by decide)]
    simp only [pixel_drawBits (show 0 + 8 ≤ 64 by decide), rowsCover_cons (show sprite.length < 31 by omega),
      Bool.or_eq_true]
    constructor
    · rintro ((h | ⟨qx, qy, h, hc⟩) | ⟨qx, qy, h, hc⟩)
      · exact .inl h
      · exact .inr ⟨qx, qy, h, .inl hc⟩
      · cases hb : bitsCover ox oy b 0 8 qx qy with
        | false => exact .inr ⟨qx, qy, by simpa [hb] using h, .inr hc⟩
        | true => rw [bitsCover_row (by omega) hb] at hc; exact absurd hc (by decide)
    · rintro (h | ⟨qx, qy, h, hc | hc⟩)
      · exact .inl (.inl h)
      · exact .inl (.inr ⟨qx, qy, h, hc⟩)
      · cases hb : bitsCover ox oy b 0 8 qx qy with
        | false => exact .inr ⟨qx, qy, by simpa [hb] using h, hc⟩
        | true => rw [bitsCover_row (by omega) hb] at hc; exact absurd hc (by decide)

end Sys2Proof.Machine
end

