-- ==== Sys2Proof/Laws/Step.lean ====
section
/-!
SUPPORT. What a step does, one lemma per next event, and what every instruction answers: a next state. The word that
`withFetchWord` places is the word that the next STEP fetches.
-/

namespace Sys2Proof.Machine

variable {s : State} {rest : List HostEvent} {input : StepInput}

/-! ### The next event -/

theorem step_of_script {e : HostEvent} (h : s.script = e :: rest) : step s = ({ s with script := rest }).perform e := by
  simp [step, State.nextEvent, h]

theorem step_of_empty (h : s.script = []) :
    step s = ({ s with freeIndex := s.freeIndex + 1 }).onStep (freeInput s.freeIndex) := by
  simp [step, State.nextEvent, h, State.perform]

/-- What can come next, and on which state it is performed. -/
theorem nextEvent_cases (s : State) :
    (s.script = [] ∧ s.nextEvent = (.step (freeInput s.freeIndex), { s with freeIndex := s.freeIndex + 1 })) ∨
      ∃ e rest, s.script = e :: rest ∧ s.nextEvent = (e, { s with script := rest }) := by
  cases h : s.script with
  | nil => exact .inl ⟨rfl, by simp [State.nextEvent, h]⟩
  | cons e rest => exact .inr ⟨e, rest, rfl, by simp [State.nextEvent, h]⟩

/-- A run goes on from the state a step answers. -/
theorem run_succ {t : State} (n : Nat) (h : step s = .next t) :
    Sys2Proof.core.run (n + 1) s = Sys2Proof.core.run n t := by
  have h' : Sys2Proof.core.step s = .next t := h
  simp only [Host.Core.run, h']

/-! ### Every instruction answers a next state -/

theorem exec_answers_next (i : Instr) (s : State) : ∃ t, exec i s = .next t := by
  cases i <;> first
    | exact ⟨_, rfl⟩
    | (simp only [exec, execDrw, execLdBcd, execStRegs, execLdRegs, raise]; split <;> exact ⟨_, rfl⟩)
    | (rcases State.pop_cases s with ⟨_, h⟩ | ⟨_, _, _, h⟩ <;> simp only [exec, execRet, h, raise] <;> exact ⟨_, rfl⟩)
    | (rcases State.push_cases s s.pc with ⟨_, h⟩ | ⟨_, h⟩ <;> simp only [exec, execCall, h, raise] <;> exact ⟨_, rfl⟩)

/-! ### A STEP -/

theorem onStep_halted (h : s.err ≠ .noError) : s.onStep input = .next s := by simp [State.onStep, h]

theorem onStep_before_load (h : s.err = .noError) (hl : s.loadIssued = false) :
    s.onStep input = .refused .stepBeforeLoad := by simp [State.onStep, h, hl]

theorem onStep_decodeError (h : s.err = .noError) (hl : s.loadIssued = true) (hd : decodeWord s.fetch = none) :
    s.onStep input = .next { s with err := .decodeError } := by simp [State.onStep, h, hl, hd, raise]

@[simp] theorem endStep_next (t : State) : endStep (.next t) = .next t.release := rfl

theorem onStep_exec {i : Instr} {t : State} (h : s.err = .noError) (hl : s.loadIssued = true)
    (hd : decodeWord s.fetch = some i) (hx : exec i (s.sample input) = .next t) :
    s.onStep input = .next t.release := by simp [State.onStep, h, hl, hd, hx]

/-- A STEP that answers a next state: the core was halted and nothing changed, or the word was no instruction and ERR
is 1, or the instruction at PC was executed and its inputs given up. -/
theorem onStep_cases {t : State} (h : s.onStep input = .next t) :
    (s.err ≠ .noError ∧ t = s) ∨
      (s.err = .noError ∧ s.loadIssued = true ∧ decodeWord s.fetch = none ∧ t = { s with err := .decodeError }) ∨
      (s.err = .noError ∧ s.loadIssued = true ∧
        ∃ i u, decodeWord s.fetch = some i ∧ exec i (s.sample input) = .next u ∧ t = u.release) := by
  by_cases he : s.err = .noError
  · by_cases hl : s.loadIssued = true
    · cases hd : decodeWord s.fetch with
      | none =>
        rw [onStep_decodeError he hl hd] at h
        exact .inr (.inl ⟨he, hl, rfl, (Host.Outcome.next.inj h).symm⟩)
      | some i =>
        obtain ⟨u, hu⟩ := exec_answers_next i (s.sample input)
        rw [onStep_exec he hl hd hu] at h
        exact .inr (.inr ⟨he, hl, i, u, rfl, hu, (Host.Outcome.next.inj h).symm⟩)
    · rw [onStep_before_load he (by simpa using hl)] at h
      exact nomatch h
  · rw [onStep_halted he] at h
    exact .inl ⟨he, (Host.Outcome.next.inj h).symm⟩

/-- A LOAD that answers a next state: the image was too long and ERR is 4, or it is in Memory and PC is 0x200. -/
theorem onLoad_cases {t : State} {image : List Byte} (h : s.onLoad image = .next t) :
    s.loadIssued = false ∧
      ((3584 < image.length ∧ t = { s with loadIssued := true, err := .memoryOutOfBounds }) ∨
        (image.length ≤ 3584 ∧
          t = { s with loadIssued := true, mem := s.mem.writeBytes 0x200 image, pc := 0x200 })) := by
  unfold State.onLoad at h
  split at h
  · exact nomatch h
  · next hl =>
    refine ⟨by simpa using hl, ?_⟩
    split at h
    · next hlen => exact .inl ⟨hlen, (Host.Outcome.next.inj h).symm⟩
    · next hlen => exact .inr ⟨Nat.le_of_not_lt hlen, (Host.Outcome.next.inj h).symm⟩

/-! ### The placed word -/

/-- The next STEP fetches the word that was placed. -/
theorem fetch_placeWord (s : State) (op : OpWord) : (s.placeWord op).fetch = op := by
  have key : ∀ (m : Memory) (p : Nat),
      joinBigEndian
        (((m.write (p % 4096) (op.extractLsb' 8 8)).write ((p + 1) % 4096) (op.extractLsb' 0 8)).read (p % 4096))
        (((m.write (p % 4096) (op.extractLsb' 8 8)).write ((p + 1) % 4096) (op.extractLsb' 0 8)).read ((p + 1) % 4096))
        = op := by
    intro m p
    rw [Memory.read_write_other _ _ (show p % 4096 ≠ (p + 1) % 4096 by omega), Memory.read_write_same,
      Memory.read_write_same, joinBigEndian_bytes]
  cases h : s.loadIssued <;> simp only [State.placeWord, State.fetch, h] <;> exact key _ _

end Sys2Proof.Machine
end

