-- ==== Sys2Proof/Tests/Slice0.lean ====
section
/-!
SUPPORT. Tests and witnesses. Expected values come from the spec: the words from the encodings of spec/30_encoding.md,
the results from spec/95_test_vectors.md (the vector's name stands with each test) or from the rule named. The last
section shows, for every statement with hypotheses, a concrete state and operands that meet them.
-/

namespace Sys2Proof.Tests

open Sys2Proof Sys2Proof.Machine

/-! ### Small states -/

/-- The launch state of 70_reset_and_hazards.md R263 with an empty image. -/
def launch : State := { State.reset with loadIssued := true, pc := 0x200 }

/-- The launch state with V1 and V2 set. -/
def regs (a b : Byte) : State := { launch with v := (launch.v.set 1 a).set 2 b }

/-- The launch state with one register set. -/
def reg (x : Reg) (a : Byte) : State := { launch with v := launch.v.set x a }

/-- The launch state with I set. -/
def at_ (a : Word) : State := { launch with i := a }

/-- The launch state with the call stack at a depth and one entry written. -/
def depth (d : Fin 17) (k : Fin 16) (a : Word) : State := { launch with sp := d, stk := launch.stk.set k a }

/-- The inputs of a STEP with nothing pressed and random byte 0. -/
def quiet : StepInput := ⟨0, none, 0⟩

/-- The launch state with the host's events. -/
def events (l : List HostEvent) : State := { launch with script := l }

/-- The state an answer holds, where it is a next state. -/
def next? : Result → Option State
  | .next t => some t
  | .fault _ => none
  | .refused _ => none

/-- V1 and VF after an instruction. -/
def flagged (i : Instr) (s : State) : Option (Byte × Byte) :=
  (next? (exec i s)).map fun t => (t.v[(1 : Fin 16)], t.v[(15 : Fin 16)])

/-- PC after an instruction. -/
def pcAfter (i : Instr) (s : State) : Option Word := (next? (exec i s)).map State.pc

/-- ERR and PC after an instruction. -/
def errAfter (i : Instr) (s : State) : Option (ErrCode × Word) := (next? (exec i s)).map fun t => (t.err, t.pc)

/-! ### Well-formedness (30_encoding.md R96, R98) -/

/-- T30-4, family 0x0. -/
theorem test_illegal_family0 :
    legalWord 0x0000 = false ∧ legalWord 0x00E1 = false ∧ legalWord 0x00FF = false ∧ legalWord 0x0123 = false := by
  decide

/-- T30-4, family 0x8. -/
theorem test_illegal_family8 :
    legalWord 0x8008 = false ∧ legalWord 0x812F = false ∧ legalWord 0x8AB9 = false ∧ legalWord 0x812D = false := by
  decide

/-- T30-4, family 0xE. -/
theorem test_illegal_familyE :
    legalWord 0xE000 = false ∧ legalWord 0xE19F = false ∧ legalWord 0xE1A0 = false := by decide

/-- T30-4, family 0xF. -/
theorem test_illegal_familyF :
    legalWord 0xF000 = false ∧ legalWord 0xF10B = false ∧ legalWord 0xF154 = false ∧ legalWord 0xF166 = false ∧
    legalWord 0xFFFF = false := by decide

/-- T30-5: the nearest legal neighbours. -/
theorem test_legal_neighbours :
    ([0x00E0, 0x00EE, 0x8007, 0x812E, 0xE19E, 0xE1A1, 0xF007, 0xF10A, 0xF155, 0xF165] : List OpWord).all legalWord := by
  decide

/-- Terms that no assembler emits: an ignored field is not 0 (R96). -/
theorem test_not_canonical :
    Instr.canonical (.seReg 1 2 1) = false ∧ Instr.canonical (.sneReg 1 2 0xF) = false ∧
    Instr.canonical (.shr 1 2) = false ∧ Instr.canonical (.shl 1 2) = false := by decide

/-- The same with the ignored field 0. -/
theorem test_canonical :
    Instr.canonical (.seReg 1 2 0) = true ∧ Instr.canonical (.sneReg 1 2 0) = true ∧
    Instr.canonical (.shr 1 0) = true ∧ Instr.canonical (.shl 1 0) = true := by decide

/-! ### Decoding: one word a constructor, written from the formats of 30_encoding.md R91 and R97 -/

/-- Families 0x0 to 0x2 and 0xA, 0xB: whole words and format A. -/
theorem test_decode_whole_and_A :
    decodeWord 0b0000000011100000#16 = some .cls ∧ decodeWord 0b0000000011101110#16 = some .ret ∧
    decodeWord 0b0001101010111100#16 = some (.jp 0xABC) ∧ decodeWord 0b0010001000010000#16 = some (.call 0x210) ∧
    decodeWord 0b1010000100100011#16 = some (.ldI 0x123) ∧
    decodeWord 0b1011001100000001#16 = some (.jpV0 0x301) := by decide

/-- Families 0x3, 0x4, 0x6, 0x7, 0xC: format XK. -/
theorem test_decode_XK :
    decodeWord 0b0011000110100101#16 = some (.seImm 1 0xA5) ∧
    decodeWord 0b0100001100010001#16 = some (.sneImm 3 0x11) ∧
    decodeWord 0b0110000011101010#16 = some (.ldImm 0 0xEA) ∧
    decodeWord 0b0111000111111110#16 = some (.addImm 1 0xFE) ∧
    decodeWord 0b1100001100001111#16 = some (.rnd 3 0x0F) := by decide

/-- Families 0x5, 0x9 and 0xD: formats XY and XYN. -/
theorem test_decode_XY :
    decodeWord 0b0101000100100000#16 = some (.seReg 1 2 0) ∧
    decodeWord 0b0101000100100001#16 = some (.seReg 1 2 1) ∧
    decodeWord 0b1001000100101111#16 = some (.sneReg 1 2 0xF) ∧
    decodeWord 0b1101000001000101#16 = some (.drw 0 4 5) := by decide

/-- Family 0x8. -/
theorem test_decode_family8 :
    decodeWord 0b1000000100100000#16 = some (.ldReg 1 2) ∧ decodeWord 0b1000000100100001#16 = some (.orReg 1 2) ∧
    decodeWord 0b1000000100100010#16 = some (.andReg 1 2) ∧ decodeWord 0b1000000100100011#16 = some (.xorReg 1 2) ∧
    decodeWord 0b1000000100100100#16 = some (.addReg 1 2) ∧ decodeWord 0b1000000100100101#16 = some (.sub 1 2) ∧
    decodeWord 0b1000000100100110#16 = some (.shr 1 2) ∧ decodeWord 0b1000000100100111#16 = some (.subn 1 2) ∧
    decodeWord 0b1000000100101110#16 = some (.shl 1 2) := by decide

/-- Family 0xE. -/
theorem test_decode_familyE :
    decodeWord 0b1110010110011110#16 = some (.skp 5) ∧ decodeWord 0b1110010110100001#16 = some (.sknp 5) := by decide

/-- Family 0xF. -/
theorem test_decode_familyF :
    decodeWord 0b1111001000000111#16 = some (.ldVxDt 2) ∧ decodeWord 0b1111000100001010#16 = some (.ldVxK 1) ∧
    decodeWord 0b1111000000010101#16 = some (.ldDtVx 0) ∧ decodeWord 0b1111001100011000#16 = some (.ldStVx 3) ∧
    decodeWord 0b1111001000011110#16 = some (.addI 2) ∧ decodeWord 0b1111110100101001#16 = some (.ldF 13) ∧
    decodeWord 0b1111011100110011#16 = some (.ldBcd 7) ∧ decodeWord 0b1111000101010101#16 = some (.stRegs 1) ∧
    decodeWord 0b1111001001100101#16 = some (.ldRegs 2) := by decide

/-- Bytes: big-endian, the rest kept, and the two rejections by name (R90, R98). -/
theorem test_decode_bytes :
    decode [0x12, 0x34, 0x56] = .ok (.jp 0x234, [0x56]) ∧ decode [0x12] = .error .truncated ∧
    decode [] = .error .truncated ∧ decode [0x80, 0x08] = .error (.noPattern 0x8008) := by decide

/-- The glyph table has 80 bytes (20_memory.md R64). -/
theorem test_glyphRom_length : Config.glyphRom.length = 80 := by decide

/-! ### Control flow -/

/-- T40-1. -/
theorem test_jp : pcAfter (.jp 0xABC) launch = some 0x0ABC := by decide

/-- T40-4: the address of the CALL itself is pushed. -/
theorem test_call : (next? (exec (.call 0x210) { launch with pc := 0x204 })).map
    (fun t => (t.stk[(0 : Fin 16)], t.sp, t.pc)) = some (0x204, 1, 0x210) := by decide

/-- T40-5. -/
theorem test_call_overflow : errAfter (.call 0x500) { depth 16 0 0 with pc := 0x400 } = some (.stackOverflow, 0x400) := by
  decide

/-- T40-7 and T40-9: PC is a 16-bit sum. -/
theorem test_ret : pcAfter .ret (depth 1 0 0x204) = some 0x206 ∧ pcAfter .ret (depth 1 0 0xFFFE) = some 0 := by decide

/-- T40-8. -/
theorem test_ret_underflow : errAfter .ret launch = some (.stackUnderflow, 0x200) := by decide

/-- T40-10: not reduced modulo 4096. -/
theorem test_jpV0 : pcAfter (.jpV0 0x300) (reg 0 4) = some 0x304 ∧ pcAfter (.jpV0 0xFFF) (reg 0 0xFF) = some 0x10FE := by
  decide

/-- T40-11, T40-15. -/
theorem test_seImm : pcAfter (.seImm 1 0) launch = some 0x204 ∧ pcAfter (.seImm 1 0) (regs 1 0) = some 0x202 ∧
    pcAfter (.seImm 15 1) (reg 15 1) = some 0x204 := by decide

/-- T40-12. -/
theorem test_sneImm : pcAfter (.sneImm 3 0x11) (reg 3 0x10) = some 0x204 ∧
    pcAfter (.sneImm 3 0x10) (reg 3 0x10) = some 0x202 := by decide

/-- T40-13, T30-6. -/
theorem test_seReg : pcAfter (.seReg 1 2 1) (regs 9 9) = some 0x204 ∧ pcAfter (.seReg 1 2 0) (regs 7 8) = some 0x202 := by
  decide

/-- T40-14, T30-6. -/
theorem test_sneReg : pcAfter (.sneReg 1 2 0xF) (regs 1 2) = some 0x204 ∧
    pcAfter (.sneReg 2 2 0) (regs 7 8) = some 0x202 := by decide

/-- T40-16: a skip at the top of the PC's range. -/
theorem test_skip_wraps : pcAfter (.seImm 0 0) { launch with pc := 0xFFFE } = some 0x0002 := by decide

/-! ### Immediate and random -/

/-- T41-2. -/
theorem test_ldImm : flagged (.ldImm 15 7) launch = some (0, 7) := by decide

/-- T41-4: no carry flag. -/
theorem test_addImm : flagged (.addImm 1 2) (regs 0xFF 0) = some (0x01, 0) := by decide

/-- T41-6. -/
theorem test_ldI : (next? (exec (.ldI 0x123) (at_ 0x1005))).map State.i = some 0x123 := by decide

/-- T41-7. -/
theorem test_rnd : (next? (exec (.rnd 3 0x0F) { launch with inputs := ⟨0, none, 0xA7⟩ })).map
    (fun t => t.v[(3 : Fin 16)]) = some 0x07 := by decide

/-! ### ALU -/

/-- T42-1. -/
theorem test_ldReg : flagged (.ldReg 1 2) (regs 0 0x37) = some (0x37, 0) := by decide

/-- T42-2. -/
theorem test_or : flagged (.orReg 1 2) { regs 0xF0 0x0F with v := (regs 0xF0 0x0F).v.set 15 9 } = some (0xFF, 9) := by
  decide

/-- T42-3. -/
theorem test_and : flagged (.andReg 1 2) (regs 0xF0 0x3C) = some (0x30, 0) := by decide

/-- T42-4. -/
theorem test_xor : flagged (.xorReg 1 2) (regs 0xF0 0x3C) = some (0xCC, 0) := by decide

/-- T42-6, T42-9, T42-10. -/
theorem test_addReg : flagged (.addReg 1 2) (regs 0xFA 0x0A) = some (0x04, 1) ∧
    flagged (.addReg 1 2) (regs 0x80 0x7F) = some (0xFF, 0) ∧
    flagged (.addReg 1 2) (regs 0x80 0x80) = some (0x00, 1) := by decide

/-- T42-28, T42-33: VF as destination and as source. -/
theorem test_addReg_vf : (flagged (.addReg 15 2) { regs 0 0x20 with v := (regs 0 0x20).v.set 15 0xF0 }).map Prod.snd
      = some 0x10 ∧
    flagged (.addReg 1 15) { regs 0xFF 0 with v := (regs 0xFF 0).v.set 15 1 } = some (0x00, 1) := by decide

/-- T42-12 to T42-14. -/
theorem test_sub : flagged (.sub 1 2) (regs 0x05 0x0A) = some (0xFB, 0) ∧
    flagged (.sub 1 2) (regs 0x0A 0x05) = some (0x05, 1) ∧ flagged (.sub 1 2) (regs 7 7) = some (0, 0) := by decide

/-- T42-17, T42-19. -/
theorem test_shr : flagged (.shr 1 2) (regs 0x05 0xAA) = some (0x02, 1) ∧
    flagged (.shr 1 2) (regs 0xFE 0xAA) = some (0x7F, 0) := by decide

/-- T42-30: the shifted value stays, not the bit. -/
theorem test_shr_vf : (flagged (.shr 15 0) (reg 15 3)).map Prod.snd = some 1 := by decide

/-- T42-21, T42-22. -/
theorem test_subn : flagged (.subn 1 2) (regs 0x03 0x0A) = some (0x07, 1) ∧
    flagged (.subn 1 2) (regs 0x0A 0x03) = some (0xF9, 0) := by decide

/-- T42-24, T42-25. -/
theorem test_shl : flagged (.shl 1 2) (regs 0x81 0xAA) = some (0x02, 1) ∧
    flagged (.shl 1 2) (regs 0x40 0xAA) = some (0x80, 0) := by decide

/-! ### Display -/

/-- A state with sprite bytes at 0x300 and the origin in V0, V1. -/
def canvas (ox oy : Byte) (sprite : List Byte) : State :=
  { launch with v := (launch.v.set 0 ox).set 1 oy, i := 0x300, mem := launch.mem.writeBytes 0x300 sprite }

/-- The pixels of a list that are on, and VF. -/
def shows (r : Result) (ps : List (Fin 64 × Fin 32)) : Option (List Bool × Byte) :=
  (next? r).map fun t => (ps.map fun p => t.fb.pixel p.1 p.2, t.v[(15 : Fin 16)])

/-- T43-1. -/
theorem test_cls : shows (exec .cls { launch with fb := launch.fb.setPixel 3 4 true }) [(3, 4)] = some ([false], 0) := by
  decide

/-- T43-2: wrap in x. -/
theorem test_drw_wraps_x : shows (exec (.drw 0 1 1) (canvas 63 0 [0xC0])) [(63, 0), (0, 0), (1, 0)] =
    some ([true, true, false], 0) := by decide

/-- T43-10: wrap in y. -/
theorem test_drw_wraps_y : shows (exec (.drw 0 1 2) (canvas 0 31 [0x80, 0x80])) [(0, 31), (0, 0), (1, 0)] =
    some ([true, true, false], 0) := by decide

/-- T43-7: one collision suffices. -/
theorem test_drw_collision : shows (exec (.drw 0 1 1)
      { canvas 0 0 [0xFF] with fb := launch.fb.setPixel 2 0 true }) [(0, 0), (1, 0), (2, 0), (7, 0), (8, 0)] =
    some ([true, true, false, true, false], 1) := by decide

/-- T43-9: the origin is read before VF is written. -/
theorem test_drw_vf_origin : shows (exec (.drw 15 1 1)
      { canvas 0 3 [0x80] with v := (launch.v.set 15 10).set 1 3 }) [(10, 3)] = some ([true], 0) := by decide

/-- T43-5: n = 0 touches no address and clears VF; T43-6. -/
theorem test_drw_bounds : (next? (exec (.drw 0 1 0) { reg 15 1 with i := 0xFFFF })).map
      (fun t => (t.err, t.v[(15 : Fin 16)])) = some (.noError, 0) ∧
    errAfter (.drw 0 1 2) (at_ 0xFFF) = some (.memoryOutOfBounds, 0x200) ∧
    errAfter (.drw 0 1 1) (at_ 0xFFF) = some (.noError, 0x202) := by decide

/-! ### Keypad -/

/-- A state at a STEP with some keys held and a key event. -/
def pressing (s : State) (held : BitVec 16) (event : Option Nibble) : State := { s with inputs := ⟨held, event, 0⟩ }

/-- T44-1, T44-3: the low four bits select the key. -/
theorem test_skp : pcAfter (.skp 5) (pressing (reg 5 0x0A) 0x0400 none) = some 0x204 ∧
    pcAfter (.skp 5) (pressing (reg 5 0x0A) 0 none) = some 0x202 ∧
    pcAfter (.skp 5) (pressing (reg 5 0x1A) 0x0400 none) = some 0x204 := by decide

/-- T44-2. -/
theorem test_sknp : pcAfter (.sknp 5) (pressing (reg 5 0x0A) 0 none) = some 0x204 ∧
    pcAfter (.sknp 5) (pressing (reg 5 0x0A) 0x0400 none) = some 0x202 := by decide

/-- T44-5, T44-6. -/
theorem test_ldVxK : (next? (exec (.ldVxK 1) (pressing launch 0xFFFF none))).map (fun t => (t.wait, t.pc)) =
      some (true, 0x200) ∧
    (next? (exec (.ldVxK 1) { pressing launch 0 (some 0xF) with wait := true })).map
      (fun t => (t.wait, t.pc, t.v[(1 : Fin 16)])) = some (false, 0x202, 0x0F) := by decide

/-! ### Timers -/

/-- T45-1. -/
theorem test_ldVxDt : flagged (.ldVxDt 1) { launch with dt := 2 } = some (2, 0) := by decide

/-- T45-1. -/
theorem test_ldDtVx : (next? (exec (.ldDtVx 0) (reg 0 3))).map (fun t => (t.dt, t.st)) = some (3, 0) := by decide

/-- T45-3. -/
theorem test_ldStVx : (next? (exec (.ldStVx 3) (reg 3 0x1E))).map (fun t => (t.dt, t.st, t.soundActive)) =
    some (0, 0x1E, true) := by decide

/-- T45-2, T45-5, T45-6: a halted core still counts down, and a timer at 0 stays there. -/
theorem test_tick : (next? (step { events [.tick] with dt := 0xFF, err := .decodeError })).map
    (fun t => (t.dt, t.st, t.err)) = some (0xFE, 0, .decodeError) := by decide

/-! ### Address register and memory -/

/-- T46-1, T46-3. -/
theorem test_addI : (next? (exec (.addI 2) { regs 0 0x10 with i := 0x300 })).map State.i = some 0x310 ∧
    (next? (exec (.addI 2) { regs 0 1 with i := 0xFFFF })).map State.i = some 0 := by decide

/-- T46-4: no mask. -/
theorem test_ldF : (next? (exec (.ldF 1) (regs 5 0))).map State.i = some 0x19 ∧
    (next? (exec (.ldF 1) (regs 0xFF 0))).map State.i = some 0x04FB := by decide

/-- T46-5, S3. -/
theorem test_ldBcd : (next? (exec (.ldBcd 1) { regs 234 0 with i := 0x123 })).map
    (fun t => (t.mem.readBytes 0x122 5, t.i)) = some ([0, 2, 3, 4, 0], 0x123) := by decide

/-- T46-6. -/
theorem test_ldBcd_bounds : errAfter (.ldBcd 1) (at_ 0xFFD) = some (.noError, 0x202) ∧
    errAfter (.ldBcd 1) (at_ 0xFFE) = some (.memoryOutOfBounds, 0x200) := by decide

/-- T46-7. -/
theorem test_stRegs : (next? (exec (.stRegs 1) { regs 0x22 0x33 with i := 0x300, v := (regs 0x22 0x33).v.set 0 0x11 })).map
    (fun t => (t.mem.readBytes 0x300 3, t.i)) = some ([0x11, 0x22, 0], 0x300) := by decide

/-- T46-9. -/
theorem test_stRegs_bounds : errAfter (.stRegs 15) (at_ 0xFF0) = some (.noError, 0x202) ∧
    errAfter (.stRegs 15) (at_ 0xFF1) = some (.memoryOutOfBounds, 0x200) := by decide

/-- T46-10. -/
theorem test_ldRegs : (next? (exec (.ldRegs 2) { canvas 9 9 [2, 3, 4, 5] with pc := 0x200 })).map
    (fun t => (t.v.toList.take 4, t.i)) = some ([2, 3, 4, 0], 0x300) := by decide

/-- T46-11. -/
theorem test_ldRegs_bounds : errAfter (.ldRegs 0) (at_ 0xFFF) = some (.noError, 0x202) ∧
    errAfter (.ldRegs 1) (at_ 0xFFF) = some (.memoryOutOfBounds, 0x200) := by decide

/-! ### Steps and events -/

/-- T30-1 with the host's placement: the word is fetched big-endian and run as the first step after reset. -/
theorem test_withFetchWord : (next? (step (State.reset.withFetchWord 16 0x1234))).map State.pc = some 0x234 ∧
    decodeTableWord 16 0x1234 = some (.jp 0x234) := by decide

/-- T30-2, T60-3: a word of zeros is a DecodeError with PC unchanged. -/
theorem test_step_decodeError : (next? (step { events [.step quiet] with pc := 0x10FE })).map
    (fun t => (t.err, t.pc)) = some (.decodeError, 0x10FE) := by decide

/-- T30-3: the fetch wraps at the end of Memory; it depends on GLYPH_ROM's first byte (log 7). -/
theorem test_fetch_wraps : State.fetch { launch with pc := 0xFFF, mem := launch.mem.write 0xFFF 0x61 } = 0x61F0 := by
  decide

/-- LOAD (R262) of two bytes; a second LOAD is refused (R264, log 9). -/
theorem test_load : (next? (step { State.reset with script := [.load [0x12, 0x34]] })).map
      (fun t => (t.pc, t.fetch, t.err)) = some (0x200, 0x1234, .noError) ∧
    step (events [.load []]) = .refused .loadOutOfOrder := ⟨by decide, rfl⟩

/-- T60-2: one byte too long. -/
theorem test_load_too_long : (next? (State.reset.onLoad (List.replicate 3585 0xFF))).map (fun t => (t.err, t.mem)) =
    some (.memoryOutOfBounds, []) := by decide +kernel

/-- T60-4. -/
theorem test_reset : (next? (step { depth 16 0 5 with script := [.reset], wait := true, err := .stackOverflow })) =
    some State.reset := by decide

/-- T60-1: once halted, a STEP changes nothing, and the host reads the same code. -/
theorem test_halted : (next? (step { events [.step quiet] with err := .stackOverflow })).map
    (fun t => (t.errOut, t.pc, t.answer)) = some (2, 0x200, .error 2) := by decide

/-! ### Witnesses: for every statement with hypotheses, a state and operands that meet them together -/

/-- The core at a word stored at 0x200, with the host's events. -/
def atWord (hi lo : Byte) (l : List HostEvent) : State :=
  { events l with mem := (launch.mem.write 0x200 hi).write 0x201 lo }

/-- EncodeOfDecodeIsTheWord. -/
theorem witness_encodeOfDecode : decodeWord 0x912F = some (.sneReg 1 2 0xF) := by decide

/-- NoWordMatchesTwoRows and DecodingFollowsTheOpcodeTable. -/
theorem witness_opcodeRows : (⟨"SE_REG", 0xF000, 0x5000⟩ : OpcodeRow) ∈ opcodeRows ∧
    OpcodeRow.covers ⟨"SE_REG", 0xF000, 0x5000⟩ 0x5121 = true ∧ decodeWord 0x5121 = some (.seReg 1 2 1) := by decide

/-- StepRunsTheDecodedInstruction. -/
theorem witness_stepRuns : ∃ s : State, s.err = .noError ∧ s.loadIssued = true ∧ s.script = [.step quiet] ∧
    decode [s.mem.read (s.pc.toNat % 4096), s.mem.read ((s.pc.toNat + 1) % 4096)] = .ok (.jp 0x234, []) :=
  ⟨atWord 0x12 0x34 [.step quiet], rfl, rfl, rfl, by decide⟩

/-- The same where the fetch wraps: PC = 0xFFFF, the word at 0xFFF and 0x000. -/
theorem witness_stepRuns_wrap : ∃ s : State, s.pc = 0xFFFF ∧
    decode [s.mem.read (s.pc.toNat % 4096), s.mem.read ((s.pc.toNat + 1) % 4096)] = .ok (.jp 0x234, []) :=
  ⟨{ launch with pc := 0xFFFF, mem := (launch.mem.write 0xFFF 0x12).write 0 0x34 }, rfl, by decide⟩

/-- StepWithoutScriptTakesFreeInputs. -/
theorem witness_stepFree : ∃ s : State, s.err = .noError ∧ s.loadIssued = true ∧ s.script = [] ∧
    decode [s.mem.read (s.pc.toNat % 4096), s.mem.read ((s.pc.toNat + 1) % 4096)] = .ok (.rnd 3 0x0F, []) :=
  ⟨atWord 0xC3 0x0F [], rfl, rfl, rfl, by decide⟩

/-- T44-7, R193: a key event offered to a STEP that executes 6000 is not there for the next STEP. -/
theorem test_step_releases_inputs : (next? (step (atWord 0x60 0x00 [.step ⟨0xFFFF, some 3, 7⟩]))).map
    (fun t => (t.inputs, t.pc)) = some (quiet, 0x202) := by decide

/-- UnmatchedWordRaisesDecodeError. -/
theorem witness_unmatched : ∃ s : State, s.err = .noError ∧ s.loadIssued = true ∧ s.script = [.step quiet] ∧
    decodeWord (s.mem.read (s.pc.toNat % 4096) ++ s.mem.read ((s.pc.toNat + 1) % 4096)) = none :=
  ⟨atWord 0x80 0x08 [.step quiet], rfl, rfl, rfl, by decide⟩

/-- OtherInstructionsIgnoreTheInputs. -/
theorem witness_ignoresInputs : Instr.readsInput (.addReg 1 2) = false ∧
    ∃ t, exec (.addReg 1 2) { regs 3 4 with inputs := quiet } = .next t := ⟨rfl, _, rfl⟩

/-- The same statement's clause on a step: a STEP that carries a key event, from a state that holds no inputs. -/
theorem witness_absent : (atWord 0xE1 0x9E [.step ⟨0xFFFF, some 3, 7⟩]).inputs = .absent ∧
    ∃ t, step (atWord 0xE1 0x9E [.step ⟨0xFFFF, some 3, 7⟩]) = .next t := ⟨rfl, _, rfl⟩

/-- StoreIsSeenByTheNextFetch, as in program P8 (I = 0x208, PC = 0x206). -/
theorem witness_storeIsFetched : ∃ s : State, 1 ≤ (1 : Reg).val ∧ s.i.toNat + (1 : Reg).val < 4096 ∧
    (s.pc + 2).toNat % 4096 = s.i.toNat ∧ ∃ t, exec (.stRegs 1) s = .next t :=
  ⟨{ at_ 0x208 with pc := 0x206 }, by decide, by decide, by decide, _, rfl⟩

/-- The same at the last address, I + x = 4095, with the PC above 4096. -/
theorem witness_storeIsFetched_top : ∃ s : State, s.i.toNat + (15 : Reg).val < 4096 ∧
    (s.pc + 2).toNat % 4096 = s.i.toNat := ⟨{ at_ 0xFF0 with pc := 0x1FEE }, by decide, by decide⟩

/-- ResetLeavesTheStatedValues. -/
theorem witness_reset : (events [.reset]).script = .reset :: [] := rfl

/-- The state of a LOAD right after RESET. -/
def loading (image : List Byte) : State := { State.reset with script := [.load image] }

/-- LoadCopiesTheImage, first clause at its largest length. -/
theorem witness_load : ∃ (s : State) (image : List Byte), s.loadIssued = false ∧ s.script = .load image :: [] ∧
    image.length ≤ 3584 :=
  ⟨loading (List.replicate 3584 0x12), _, rfl, rfl, by simp only [List.length_replicate, Nat.le_refl]⟩

/-- LoadCopiesTheImage, second clause at its smallest length. -/
theorem witness_load_long : ∃ (s : State) (image : List Byte), s.loadIssued = false ∧ s.script = .load image :: [] ∧
    image.length > 3584 :=
  ⟨loading (List.replicate 3585 0x12), _, rfl, rfl, by simp only [List.length_replicate]; decide⟩

/-- LaunchStateAfterResetAndLoad. -/
theorem witness_launch : ([0x12, 0x34] : List Byte).length ≤ 3584 ∧
    (events [.reset, .load [0x12, 0x34]]).script = .reset :: .load [0x12, 0x34] :: [] := ⟨by decide, rfl⟩

/-- LaunchOutOfOrderIsRefused, both clauses. -/
theorem witness_outOfOrder : (∃ s : State, s.err = .noError ∧ s.loadIssued = false ∧ s.script = .step quiet :: []) ∧
    ∃ s : State, s.loadIssued = true ∧ s.script = .load [0x12] :: [] :=
  ⟨⟨{ State.reset with script := [.step quiet] }, rfl, rfl, rfl⟩, ⟨events [.load [0x12]], rfl, rfl⟩⟩

/-- TickCountsBothTimersDown and TicksFloorTheTimersAtZero, with a timer above 0 and one at 0 (S7). -/
theorem witness_ticks : ∃ s : State, s.script = List.replicate 5 .tick ∧ s.dt = 3 ∧ s.st = 0 :=
  ⟨{ events (List.replicate 5 .tick) with dt := 3 }, rfl, rfl, rfl⟩

/-- HaltedCoreStaysHalted, its three events. -/
theorem witness_halted (e : HostEvent) : ∃ s : State, s.err ≠ .noError ∧ s.script = e :: [] :=
  ⟨{ events [e] with err := .stackOverflow }, by simp, rfl⟩

/-- InstructionsRaiseExactlyTheListedErrors: each listed error at the edge of its condition. -/
theorem witness_raised : Instr.raised (.call 0) (depth 16 0 0) = some .stackOverflow ∧
    Instr.raised .ret launch = some .stackUnderflow ∧
    Instr.raised (.drw 0 0 2) (at_ 0xFFF) = some .memoryOutOfBounds ∧
    Instr.raised (.ldBcd 0) (at_ 0xFFE) = some .memoryOutOfBounds ∧
    Instr.raised (.stRegs 15) (at_ 0xFF1) = some .memoryOutOfBounds ∧
    Instr.raised (.ldRegs 1) (at_ 0xFFF) = some .memoryOutOfBounds := by decide

/-- The same, just inside: no error. -/
theorem witness_not_raised : Instr.raised (.call 0) (depth 15 0 0) = none ∧ Instr.raised .ret (depth 1 0 0) = none ∧
    Instr.raised (.drw 0 0 1) (at_ 0xFFF) = none ∧ Instr.raised (.drw 0 0 0) (at_ 0xFFFF) = none ∧
    Instr.raised (.ldBcd 0) (at_ 0xFFD) = none ∧ Instr.raised (.stRegs 15) (at_ 0xFF0) = none ∧
    Instr.raised (.ldRegs 0) (at_ 0xFFF) = none := by decide

/-- ErrorsArePrecise. -/
theorem witness_precise : ∃ t, exec .ret launch = .next t ∧ t.err ≠ launch.err := ⟨_, rfl, by decide⟩

/-- OutputsAreReadFromTheState, both clauses on ERR. -/
theorem witness_answer : launch.errOut = 0 ∧ ({ launch with err := .decodeError }).errOut ≠ 0 := by decide

/-- RetPopsTheCallStack: empty, one entry, full. -/
theorem witness_ret : launch.sp.val = 0 ∧ (depth 1 0 5).sp.val = 0 + 1 ∧ (depth 16 15 5).sp.val = 15 + 1 := by decide

/-- CallPushesItsOwnAddress and RetReturnsBehindTheCall: full, the last free entry, empty. -/
theorem witness_call : (depth 16 0 0).sp.val = 16 ∧ (depth 15 0 0).sp.val < 16 ∧ launch.sp.val < 16 := by decide

/-- ResultRemainsWhenDestinationIsVF: each of the five answers a next state. -/
theorem witness_resultRemains :
    (∃ t, exec (.addReg 15 2) (reg 15 0xF0) = .next t) ∧ (∃ t, exec (.sub 15 2) (reg 15 1) = .next t) ∧
    (∃ t, exec (.shr 15 2) (reg 15 3) = .next t) ∧ (∃ t, exec (.subn 15 2) (reg 15 5) = .next t) ∧
    ∃ t, exec (.shl 15 2) (reg 15 0xC1) = .next t := ⟨⟨_, rfl⟩, ⟨_, rfl⟩, ⟨_, rfl⟩, ⟨_, rfl⟩, ⟨_, rfl⟩⟩

/-- DrwXorsTheSpriteWithWrap: the first address that raises, the last that does not, and no row at all. -/
theorem witness_drw : ((2#4).toNat > 0 ∧ (at_ 0xFFF).i.toNat + ((2#4).toNat - 1) ≥ 4096) ∧
    (at_ 0xFFF).i.toNat + ((1#4).toNat - 1) < 4096 ∧ (0#4).toNat = 0 := by decide

/-- DrawingTwiceRestoresTheBuffer: on an empty buffer, with the same registers as origin. -/
theorem witness_drawTwice : ∃ t u, exec (.drw 0 1 1) (canvas 63 31 [0xC0]) = .next t ∧ exec (.drw 0 1 1) t = .next u ∧
    t.v[(0 : Fin 16)].toNat % 64 = (canvas 63 31 [0xC0]).v[(0 : Fin 16)].toNat % 64 ∧
    t.v[(1 : Fin 16)].toNat % 32 = (canvas 63 31 [0xC0]).v[(1 : Fin 16)].toNat % 32 ∧
    (canvas 63 31 [0xC0]).i.toNat + ((1#4).toNat - 1) < 4096 ∧
    ∀ (px : Fin 64) (py : Fin 32), (canvas 63 31 [0xC0]).fb[px][py] = false :=
  ⟨_, _, rfl, rfl, by decide, by decide, by decide, by decide +kernel⟩

/-- LdVxKWaitsForAKey: without and with a key event, the largest key. -/
theorem witness_ldVxK : (pressing launch 0 none).inputs.keyEvent = none ∧
    (pressing launch 0 (some 15)).inputs.keyEvent = some 15 := ⟨rfl, rfl⟩

/-- KeyWaitHoldsWithoutAKeyEvent. -/
theorem witness_keyWait : ∃ s : State, s.err = .noError ∧ s.loadIssued = true ∧ decodeWord s.fetch = some (.ldVxK 1) ∧
    ∀ e ∈ s.script, e = .tick ∨ ∃ input, e = .step input ∧ input.keyEvent = none :=
  ⟨atWord 0xF1 0x0A [.tick, .step quiet], rfl, rfl, by decide, by
    intro e he
    rcases List.mem_cons.1 he with h | h
    · exact .inl h
    · exact .inr ⟨quiet, List.mem_singleton.1 h, rfl⟩⟩

/-- LdBcdStoresTheDigits, StRegsStoresV0ToVx, LdRegsLoadsV0ToVx: both sides of each bound. -/
theorem witness_bounds : (at_ 0xFFE).i.toNat + 2 ≥ 4096 ∧ (at_ 0xFFD).i.toNat + 2 < 4096 ∧
    (at_ 0xFF1).i.toNat + (15 : Reg).val ≥ 4096 ∧ (at_ 0xFF0).i.toNat + (15 : Reg).val < 4096 ∧
    (at_ 0xFFF).i.toNat + (0 : Reg).val < 4096 ∧ (at_ 0x1000).i.toNat + (0 : Reg).val ≥ 4096 := by decide

/-- OnlyDestinationsAndVFChange. -/
theorem witness_destinations : (∃ t, exec (.addReg 1 2) (regs 3 4) = .next t) ∧
    Instr.destination (.addReg 1 2) 2 = false ∧ (Instr.setsFlag (.addReg 1 2) = true → (2 : Reg) ≠ 15) :=
  ⟨⟨_, rfl⟩, by decide, by decide⟩

/-- FlagIsZeroOrOne. -/
theorem witness_flag : Instr.setsFlag (.addReg 1 2) = true ∧ Instr.destination (.addReg 1 2) 15 = false ∧
    Instr.raised (.addReg 1 2) (regs 3 4) = none ∧ ∃ t, exec (.addReg 1 2) (regs 3 4) = .next t :=
  ⟨rfl, by decide, rfl, _, rfl⟩

/-- OnlyStoredBytesChange: the byte behind the three that LD_BCD stores. -/
theorem witness_stored : (∃ t, exec (.ldBcd 0) (at_ 0x300) = .next t) ∧
    ∀ k, k < Instr.storeCount (.ldBcd 0) → 0x303 ≠ (at_ 0x300).dataAddr k := ⟨⟨_, rfl⟩, by decide⟩

/-- OnlyThreeInstructionsWriteI, OnlyCallAndRetChangeTheStack, DeviceStateIsWrittenByItsOwnInstructions. -/
theorem witness_frames : (∃ t, exec (.ldImm 1 2) launch = .next t) ∧
    (∀ nnn, Instr.ldImm 1 2 ≠ .ldI nnn) ∧ (∀ x, Instr.ldImm 1 2 ≠ .addI x) ∧ (∀ x, Instr.ldImm 1 2 ≠ .ldF x) ∧
    (∀ nnn, Instr.ldImm 1 2 ≠ .call nnn) ∧ Instr.ldImm 1 2 ≠ .ret ∧ Instr.ldImm 1 2 ≠ .cls ∧
    (∀ x y n, Instr.ldImm 1 2 ≠ .drw x y n) ∧ (∀ x, Instr.ldImm 1 2 ≠ .ldDtVx x) ∧
    (∀ x, Instr.ldImm 1 2 ≠ .ldStVx x) ∧ ∀ x, Instr.ldImm 1 2 ≠ .ldVxK x := by
  refine ⟨⟨_, rfl⟩, ?_, ?_, ?_, ?_, ?_, ?_, ?_, ?_, ?_, ?_⟩ <;> intros <;> intro h <;> cases h

/-- StepKeepsMemoryCanonical: a store in progress at a core whose memory lists entries. -/
theorem witness_canonical : (atWord 0xF1 0x55 [.step quiet]).mem.wf ∧
    ∃ t, step { atWord 0xF1 0x55 [.step quiet] with i := 0xFFE } = .next t := ⟨by decide, _, rfl⟩

/-- StepKeepsWaitingAtKeyWait, with WAIT = 1. -/
theorem witness_waits : State.waitsAtKeyWait { atWord 0xF1 0x0A [.step quiet] with wait := true } ∧
    ∃ t, step { atWord 0xF1 0x0A [.step quiet] with wait := true } = .next t :=
  ⟨fun _ => ⟨rfl, rfl, 1, by decide⟩, _, rfl⟩

/-- StepKeepsTheLaunchOrder, before the LOAD. -/
theorem witness_launchOrder : State.launchesFromReset (loading [0x12]) ∧ (loading [0x12]).loadIssued = false ∧
    ∃ t, step (loading [0x12]) = .next t := by
  refine ⟨fun _ => ⟨⟨fun _ _ => rfl, fun a h _ => List.getD_eq_default _ _ h, by decide, rfl, rfl, rfl, rfl, by decide +kernel,
    rfl, rfl⟩, rfl, rfl, by decide⟩, rfl, _, rfl⟩

end Sys2Proof.Tests
end

section
/-!
PROOFS. What an instruction answers, said once: it raises the error the table of spec/60_exceptions.md names, or it
completes (`exec_eq`). Every frame of `exec` is then a frame of `completed`.
-/

namespace Sys2Proof.Machine

/-! ### The call stack below full and above zero depth -/

/-- The state after a push that finds room (10_state.md R28). -/
def State.pushed (s : State) (a : Word) : State :=
  { s with stk := s.stk.setIfInBounds s.sp.val a, sp := Fin.ofNat 17 (s.sp.val + 1) }

/-- The state after a pop that finds an entry (10_state.md R28). -/
def State.popped (s : State) : State := { s with sp := ⟨s.sp.val - 1, by have := s.sp.isLt; omega⟩ }

/-- The entry that a pop gives when there is one. -/
def State.topEntry (s : State) : Word := s.stk[s.sp.val - 1]'(by have := s.sp.isLt; omega)

theorem State.push_eq_pushed {s : State} (h : s.sp.val < 16) (a : Word) : s.push a = some (s.pushed a) := by
  have hsp : (⟨s.sp.val + 1, Nat.succ_lt_succ h⟩ : Fin 17) = Fin.ofNat 17 (s.sp.val + 1) :=
    Fin.ext (Nat.mod_eq_of_lt (Nat.succ_lt_succ h)).symm
  have hstk : s.stk.set s.sp.val a h = s.stk.setIfInBounds s.sp.val a := by
    ext k hk
    rw [Vector.getElem_set, Vector.getElem_setIfInBounds]
  rw [State.push_room s h a, hsp, hstk, State.pushed]

theorem State.pop_eq_popped {s : State} (h : 0 < s.sp.val) : s.pop = some (s.topEntry, s.popped) :=
  s.pop_some (d := s.sp.val - 1) (by omega) (by have := s.sp.isLt; omega)

theorem State.pushed_sp_val {s : State} (h : s.sp.val < 16) (a : Word) : (s.pushed a).sp.val = s.sp.val + 1 :=
  Nat.mod_eq_of_lt (Nat.succ_lt_succ h)

/-- The entry pushed is the one on top. -/
theorem State.topEntry_pushed {s : State} (h : s.sp.val < 16) (a : Word) : (s.pushed a).topEntry = a := by
  have hidx : (s.pushed a).sp.val - 1 = s.sp.val := by rw [State.pushed_sp_val h]; rfl
  simp only [State.topEntry, hidx]
  exact Vector.getElem_setIfInBounds_self _

/-- A pop behind a push gives the depth back; the entry stays in STK (92_eei_decisions.md D27). -/
theorem State.popped_pushed {s : State} (h : s.sp.val < 16) (a : Word) :
    (s.pushed a).popped = { s with stk := (s.pushed a).stk } := by
  have hsp : (s.pushed a).popped.sp = s.sp := by
    apply Fin.ext
    show (s.pushed a).sp.val - 1 = s.sp.val
    rw [State.pushed_sp_val h]
    rfl
  exact congrArg (fun d => { s with stk := (s.pushed a).stk, sp := d }) hsp

/-! ### An instruction raises or completes -/

/-- The state an instruction leaves when it raises no error, in the named operations of the model; `exec_eq` ties it to
`exec`. -/
def completed (i : Instr) (s : State) : State :=
  match i with
  | .cls => (s.setFb Display.empty).advance
  | .ret => s.popped.setPc (s.topEntry + 2)
  | .jp nnn => s.setPc (absolute nnn)
  | .call nnn => (s.pushed s.pc).setPc (absolute nnn)
  | .seImm x kk => s.skipIf (s.readV x == kk)
  | .sneImm x kk => s.skipIf (s.readV x != kk)
  | .seReg x y _ => s.skipIf (s.readV x == s.readV y)
  | .ldImm x kk => (s.writeV x kk).advance
  | .addImm x kk => (s.writeV x (s.readV x + kk)).advance
  | .ldReg x y => (s.writeV x (s.readV y)).advance
  | .orReg x y => (s.writeV x (s.readV x ||| s.readV y)).advance
  | .andReg x y => (s.writeV x (s.readV x &&& s.readV y)).advance
  | .xorReg x y => (s.writeV x (s.readV x ^^^ s.readV y)).advance
  | .addReg x y => (s.writeFlagged x (carryFlag (s.readV x) (s.readV y)) (s.readV x + s.readV y)).advance
  | .sub x y => (s.writeFlagged x (greaterFlag (s.readV x) (s.readV y)) (s.readV x - s.readV y)).advance
  | .shr x _ => (s.writeFlagged x (lowBitFlag (s.readV x)) (s.readV x >>> 1)).advance
  | .subn x y => (s.writeFlagged x (greaterFlag (s.readV y) (s.readV x)) (s.readV y - s.readV x)).advance
  | .shl x _ => (s.writeFlagged x (highBitFlag (s.readV x)) (s.readV x <<< 1)).advance
  | .sneReg x y _ => s.skipIf (s.readV x != s.readV y)
  | .ldI nnn => (s.setI (absolute nnn)).advance
  | .jpV0 nnn => s.setPc (s.offsetTarget nnn)
  | .rnd x kk => (s.writeV x (s.inputs.randByte &&& kk)).advance
  | .drw x y n => ((s.setFb (s.drawn x y n).1).writeV Reg.vf (collisionFlag (s.drawn x y n).2)).advance
  | .skp x => s.skipIf (s.keyHeld (s.readV x))
  | .sknp x => s.skipIf (!s.keyHeld (s.readV x))
  | .ldVxDt x => (s.writeV x s.dt).advance
  | .ldVxK x => s.afterKeyWait x s.inputs.keyEvent
  | .ldDtVx x => (s.setDt (s.readV x)).advance
  | .ldStVx x => (s.setSt (s.readV x)).advance
  | .addI x => (s.setI (s.i + (s.readV x).setWidth 16)).advance
  | .ldF x => (s.setI (glyphAddr (s.readV x))).advance
  | .ldBcd x => (s.writeData (bcdDigits (s.readV x))).advance
  | .stRegs x => (s.writeData (s.listV x)).advance
  | .ldRegs x => (s.loadV x (s.readData (x.val + 1))).advance

/-- An instruction that tests its bounds raises exactly where the table's condition on its largest address holds. -/
theorem accessFits_ite_eq {s : State} {n : Nat} {c : Prop} [Decidable c] (hc : c ↔ ¬ s.accessFits n = true)
    (t : State) : (if s.accessFits n then .next t else raise .memoryOutOfBounds s : Result) =
      (if c then some ErrCode.memoryOutOfBounds else none).elim (.next t) (raise · s) := by
  by_cases h : s.accessFits n = true
  · rw [if_pos h, if_neg (fun hn => hc.1 hn h), Option.elim_none]
  · rw [if_neg h, if_pos (hc.2 h), Option.elim_some]

/-- An instruction raises the error that the table names for it (60_exceptions.md R230, R238), and completes where the
table names none. -/
theorem exec_eq (i : Instr) (s : State) : exec i s = (i.raised s).elim (.next (completed i s)) (raise · s) := by
  cases i with
  | ret =>
    rcases Nat.eq_zero_or_pos s.sp.val with h | h
    · simp only [exec, execRet, s.pop_empty h, Instr.raised, if_pos h, Option.elim_some]
    · simp only [exec, execRet, State.pop_eq_popped h, Instr.raised, if_neg (Nat.ne_of_gt h), Option.elim_none,
        completed]
  | call nnn =>
    rcases Nat.lt_or_ge s.sp.val 16 with h | h
    · simp only [exec, execCall, State.push_eq_pushed h, Instr.raised, if_neg (Nat.ne_of_lt h), Option.elim_none,
        completed]
    · have hfull : s.sp.val = 16 := Nat.le_antisymm (Nat.le_of_lt_succ s.sp.isLt) h
      simp only [exec, execCall, s.push_full hfull, Instr.raised, if_pos hfull, Option.elim_some]
  | drw x y n => exact accessFits_ite_eq (by rw [State.accessFits_iff]; omega) _
  | ldBcd x => exact accessFits_ite_eq (by rw [State.accessFits_iff]; omega) _
  | stRegs x | ldRegs x => exact accessFits_ite_eq (by rw [State.accessFits_iff]; omega) _
  | _ => rfl

theorem exec_of_raised {i : Instr} {s : State} {e : ErrCode} (h : i.raised s = some e) :
    exec i s = .next { s with err := e } := by
  rw [exec_eq, h, Option.elim_some, raise_eq]

theorem exec_of_not_raised {i : Instr} {s : State} (h : i.raised s = none) : exec i s = .next (completed i s) := by
  rw [exec_eq, h, Option.elim_none]

/-- Everything an instruction can do: set ERR alone, or complete. -/
theorem exec_cases {i : Instr} {s t : State} (h : exec i s = .next t) :
    (∃ e, i.raised s = some e ∧ t = { s with err := e }) ∨ (i.raised s = none ∧ t = completed i s) := by
  cases hr : i.raised s with
  | some e =>
    rw [exec_of_raised hr] at h
    exact .inl ⟨e, rfl, (Host.Outcome.next.inj h).symm⟩
  | none =>
    rw [exec_of_not_raised hr] at h
    exact .inr ⟨rfl, (Host.Outcome.next.inj h).symm⟩

/-- What neither ERR nor the completed instruction touches, the instruction leaves unchanged. -/
theorem exec_frame {α : Type} (f : State → α) {i : Instr} {s t : State} (herr : ∀ e, f { s with err := e } = f s)
    (hdone : f (completed i s) = f s) (h : exec i s = .next t) : f t = f s := by
  rcases exec_cases h with ⟨e, -, rfl⟩ | ⟨-, rfl⟩
  · exact herr e
  · exact hdone

end Sys2Proof.Machine
end

section
/-!
PROOFS. The frames of a completed instruction, one lemma per field, and the statements they settle: what an instruction
leaves unchanged (spec/10_state.md R21, R22, R26 to R30, R32).
-/

namespace Sys2Proof.Machine

variable {i : Instr} {s t : State}

/-! ### The state after LD_VX_K: V[x], PC and WAIT only -/

section
variable (s : State) (x : Reg) (k : Option Nibble)

@[simp] theorem State.afterKeyWait_i : (s.afterKeyWait x k).i = s.i := by cases k <;> rfl
@[simp] theorem State.afterKeyWait_stk : (s.afterKeyWait x k).stk = s.stk := by cases k <;> rfl
@[simp] theorem State.afterKeyWait_sp : (s.afterKeyWait x k).sp = s.sp := by cases k <;> rfl
@[simp] theorem State.afterKeyWait_fb : (s.afterKeyWait x k).fb = s.fb := by cases k <;> rfl
@[simp] theorem State.afterKeyWait_dt : (s.afterKeyWait x k).dt = s.dt := by cases k <;> rfl
@[simp] theorem State.afterKeyWait_st : (s.afterKeyWait x k).st = s.st := by cases k <;> rfl
@[simp] theorem State.afterKeyWait_mem : (s.afterKeyWait x k).mem = s.mem := by cases k <;> rfl
@[simp] theorem State.afterKeyWait_err : (s.afterKeyWait x k).err = s.err := by cases k <;> rfl
@[simp] theorem State.afterKeyWait_inputs : (s.afterKeyWait x k).inputs = s.inputs := by cases k <;> rfl
@[simp] theorem State.afterKeyWait_script : (s.afterKeyWait x k).script = s.script := by cases k <;> rfl
@[simp] theorem State.afterKeyWait_freeIndex : (s.afterKeyWait x k).freeIndex = s.freeIndex := by cases k <;> rfl
@[simp] theorem State.afterKeyWait_loadIssued : (s.afterKeyWait x k).loadIssued = s.loadIssued := by cases k <;> rfl
end

/-! ### Reading a register after a write -/

/-- A register that a write of V[x] does not name. -/
theorem getElem_writeV_ne (s : State) {x r : Reg} (b : Byte) (h : r ≠ x) : (s.writeV x b).v[r] = s.v[r] :=
  getElem_set_ne h

/-- A register that is neither VF nor the destination of a flagged write. -/
theorem getElem_writeFlagged_ne (s : State) {x r : Reg} (f b : Byte) (hx : r ≠ x) (hf : r ≠ 15) :
    (s.writeFlagged x f b).v[r] = s.v[r] :=
  (getElem_writeV_ne (s.writeV Reg.vf f) b hx).trans (getElem_writeV_ne s f hf)

/-- VF after a flagged write to another register. -/
theorem vf_writeFlagged (s : State) {x : Reg} (f b : Byte) (h : (15 : Fin 16) ≠ x) :
    (s.writeFlagged x f b).v[(15 : Fin 16)] = f :=
  (getElem_writeV_ne (s.writeV Reg.vf f) b h).trans (Vector.getElem_set_self _)

theorem getElem_afterKeyWait_ne (s : State) {x r : Reg} (k : Option Nibble) (h : r ≠ x) :
    (s.afterKeyWait x k).v[r] = s.v[r] := by
  cases k with
  | none => rfl
  | some k => exact getElem_writeV_ne s _ h

theorem getElem_loadV_above (s : State) {x r : Reg} (bs : List Byte) (h : ¬ r ≤ x) :
    (s.loadV x bs).v[r] = s.v[r] := by
  rw [← State.readV_eq, State.readV_loadV, if_neg h, State.readV_eq]

/-! ### General registers and VF -/

theorem getElem_completed_of_not_destination {r : Reg} (hd : i.destination r = false)
    (hf : i.setsFlag = true → r ≠ 15) : (completed i s).v[r] = s.v[r] := by
  cases i with
  | ldImm | addImm | ldReg | orReg | andReg | xorReg | rnd | ldVxDt =>
    exact getElem_writeV_ne s _ (beq_eq_false_iff_ne.1 hd)
  | addReg | sub | shr | subn | shl => exact getElem_writeFlagged_ne s _ _ (beq_eq_false_iff_ne.1 hd) (hf rfl)
  | drw x y n => exact getElem_writeV_ne (s.setFb _) _ (hf rfl)
  | ldVxK => exact getElem_afterKeyWait_ne s _ (beq_eq_false_iff_ne.1 hd)
  | ldRegs => exact getElem_loadV_above s _ (of_decide_eq_false hd)
  | _ => rfl

/-- Settles O49: raising writes no register, and a completed instruction writes its destination, and VF when it is one
of the six. -/
theorem onlyDestinationsAndVFChange : Obligations.OnlyDestinationsAndVFChange := fun _ _ _ r h hd hf =>
  exec_frame (fun u => u.v[r]) (fun _ => rfl) (getElem_completed_of_not_destination hd hf) h

theorem flagByte_eq_zero_or_one (c : Bool) : flagByte c = 0 ∨ flagByte c = 1 := by
  cases c
  · exact .inl rfl
  · exact .inr rfl

/-- What a completed flag-writing instruction leaves in VF is a condition as a byte. -/
theorem vf_completed (hs : i.setsFlag = true) (hd : i.destination 15 = false) :
    ∃ c, (completed i s).v[(15 : Fin 16)] = flagByte c := by
  cases i with
  | addReg | sub | shr | subn | shl => exact ⟨_, vf_writeFlagged s _ _ (beq_eq_false_iff_ne.1 hd)⟩
  | drw x y n => exact ⟨_, Vector.getElem_set_self _⟩
  | _ => exact nomatch hs

/-- Settles O50: the instruction completes, and what it leaves in VF is a condition as a byte. -/
theorem flagIsZeroOrOne : Obligations.FlagIsZeroOrOne := by
  intro i s t hs hd hr h
  rw [exec_of_not_raised hr] at h
  obtain rfl := Host.Outcome.next.inj h
  obtain ⟨c, hc⟩ := vf_completed (s := s) hs hd
  rw [hc]
  exact flagByte_eq_zero_or_one c

/-! ### I and the call stack -/

theorem completed_i (hi : ∀ nnn, i ≠ .ldI nnn) (ha : ∀ x, i ≠ .addI x) (hf : ∀ x, i ≠ .ldF x) :
    (completed i s).i = s.i := by
  cases i with
  | ldI nnn => exact absurd rfl (hi nnn)
  | addI x => exact absurd rfl (ha x)
  | ldF x => exact absurd rfl (hf x)
  | ldVxK x => exact s.afterKeyWait_i x _
  | _ => rfl

/-- Settles O52: no completed instruction but the three writes I. -/
theorem onlyThreeInstructionsWriteI : Obligations.OnlyThreeInstructionsWriteI := fun _ _ _ hi ha hf h =>
  exec_frame State.i (fun _ => rfl) (completed_i hi ha hf) h

theorem completed_stk (hc : ∀ nnn, i ≠ .call nnn) : (completed i s).stk = s.stk := by
  cases i with
  | call nnn => exact absurd rfl (hc nnn)
  | ldVxK x => exact s.afterKeyWait_stk x _
  | _ => rfl

theorem completed_sp (hc : ∀ nnn, i ≠ .call nnn) (hr : i ≠ .ret) : (completed i s).sp = s.sp := by
  cases i with
  | call nnn => exact absurd rfl (hc nnn)
  | ret => exact absurd rfl hr
  | ldVxK x => exact s.afterKeyWait_sp x _
  | _ => rfl

/-- Settles O53: of the completed instructions CALL alone writes STK, and RET beside it SP. -/
theorem onlyCallAndRetChangeTheStack : Obligations.OnlyCallAndRetChangeTheStack := fun _ _ _ hc h =>
  ⟨exec_frame State.stk (fun _ => rfl) (completed_stk hc) h,
    fun hr => exec_frame State.sp (fun _ => rfl) (completed_sp hc hr) h⟩

/-! ### Display, timers, WAIT and the host's fields -/

theorem completed_fb (hc : i ≠ .cls) (hd : ∀ x y n, i ≠ .drw x y n) : (completed i s).fb = s.fb := by
  cases i with
  | cls => exact absurd rfl hc
  | drw x y n => exact absurd rfl (hd x y n)
  | ldVxK x => exact s.afterKeyWait_fb x _
  | _ => rfl

theorem completed_dt (hd : ∀ x, i ≠ .ldDtVx x) : (completed i s).dt = s.dt := by
  cases i with
  | ldDtVx x => exact absurd rfl (hd x)
  | ldVxK x => exact s.afterKeyWait_dt x _
  | _ => rfl

theorem completed_st (hd : ∀ x, i ≠ .ldStVx x) : (completed i s).st = s.st := by
  cases i with
  | ldStVx x => exact absurd rfl (hd x)
  | ldVxK x => exact s.afterKeyWait_st x _
  | _ => rfl

theorem completed_wait (hk : ∀ x, i ≠ .ldVxK x) : (completed i s).wait = s.wait := by
  cases i with
  | ldVxK x => exact absurd rfl (hk x)
  | _ => rfl

theorem completed_inputs (i : Instr) (s : State) : (completed i s).inputs = s.inputs := by
  cases i with
  | ldVxK x => exact s.afterKeyWait_inputs x _
  | _ => rfl

theorem completed_script (i : Instr) (s : State) : (completed i s).script = s.script := by
  cases i with
  | ldVxK x => exact s.afterKeyWait_script x _
  | _ => rfl

theorem completed_freeIndex (i : Instr) (s : State) : (completed i s).freeIndex = s.freeIndex := by
  cases i with
  | ldVxK x => exact s.afterKeyWait_freeIndex x _
  | _ => rfl

theorem completed_loadIssued (i : Instr) (s : State) : (completed i s).loadIssued = s.loadIssued := by
  cases i with
  | ldVxK x => exact s.afterKeyWait_loadIssued x _
  | _ => rfl

theorem exec_wait (hk : ∀ x, i ≠ .ldVxK x) (h : exec i s = .next t) : t.wait = s.wait :=
  exec_frame State.wait (fun _ => rfl) (completed_wait hk) h

/-- Settles O54: raising writes ERR alone, and each of these fields has its own frame in the completed instruction. -/
theorem deviceStateIsWrittenByItsOwnInstructions : Obligations.DeviceStateIsWrittenByItsOwnInstructions := by
  intro i s t h
  refine ⟨fun hc hd => ?_, fun hd => ?_, fun hd => ?_, fun hk => exec_wait hk h, ?_, ?_, ?_, ?_⟩
  · exact exec_frame State.fb (fun _ => rfl) (completed_fb hc hd) h
  · exact exec_frame State.dt (fun _ => rfl) (completed_dt hd) h
  · exact exec_frame State.st (fun _ => rfl) (completed_st hd) h
  · exact exec_frame State.inputs (fun _ => rfl) (completed_inputs i s) h
  · exact exec_frame State.script (fun _ => rfl) (completed_script i s) h
  · exact exec_frame State.freeIndex (fun _ => rfl) (completed_freeIndex i s) h
  · exact exec_frame State.loadIssued (fun _ => rfl) (completed_loadIssued i s) h

end Sys2Proof.Machine
end

section
/-!
PROOFS. What every step keeps, said once (`step_induction`), and the two invariants of spec/10_state.md that rest on it:
the core waits only at an LD_VX_K (R32), and no copy of the inputs stays (R39, 44_keypad.md R193).
-/

namespace Sys2Proof.Machine

variable {i : Instr} {s t : State}

/-! ### Taking the next event -/

/-- Taking the next event changes the script and the count of free inputs only. -/
theorem nextEvent_state (s : State) :
    s.nextEvent.2 = { s with script := s.nextEvent.2.script, freeIndex := s.nextEvent.2.freeIndex } := by
  rcases nextEvent_cases s with ⟨-, h⟩ | ⟨e, rest, -, h⟩ <;> rw [h]

/-- What holds of the state with the next event taken and is kept by each of the four events holds after a step. -/
theorem step_induction {P : State → Prop} (next : P s.nextEvent.2) (reset : ∀ u : State, P u.onReset)
    (load : ∀ u v image, P u → u.onLoad image = .next v → P v)
    (stepped : ∀ u v input, P u → u.onStep input = .next v → P v)
    (tick : ∀ u, P u → P u.onTick) (h : step s = .next t) : P t := by
  unfold step at h
  cases he : s.nextEvent.1 with
  | reset =>
    rw [he] at h
    exact Host.Outcome.next.inj h ▸ reset _
  | load image =>
    rw [he] at h
    exact load _ _ image next h
  | step input =>
    rw [he] at h
    exact stepped _ _ input next h
  | tick =>
    rw [he] at h
    exact Host.Outcome.next.inj h ▸ tick _ next

/-! ### Waiting at a key wait -/

/-- The invariant looks at WAIT, ERR, the launch order, PC and Memory only. -/
theorem State.waitsAtKeyWait_congr (h : s.waitsAtKeyWait) (hw : t.wait = s.wait) (he : t.err = s.err)
    (hl : t.loadIssued = s.loadIssued) (hp : t.pc = s.pc) (hm : t.mem = s.mem) : t.waitsAtKeyWait := by
  intro hwait
  obtain ⟨herr, hload, x, hx⟩ := h (hw ▸ hwait)
  exact ⟨he.trans herr, hl.trans hload, x, by rw [State.fetch_congr hp hm, hx]⟩

theorem State.waitsAtKeyWait_of_not_wait (h : s.wait = false) : s.waitsAtKeyWait := fun hw =>
  absurd (h.symm.trans hw) Bool.false_ne_true

/-- LD_VX_K at PC either ends the wait or keeps everything but WAIT, PC included; another instruction at PC means that
the core was not waiting, and leaves it so. -/
theorem exec_keeps_waitsAtKeyWait (hs : s.waitsAtKeyWait) (he : s.err = .noError) (hl : s.loadIssued = true)
    (hd : decodeWord s.fetch = some i) (h : exec i s = .next t) : t.waitsAtKeyWait := by
  by_cases hk : ∃ x, i = .ldVxK x
  · obtain ⟨x, rfl⟩ := hk
    obtain rfl : s.afterKeyWait x s.inputs.keyEvent = t := Host.Outcome.next.inj h
    cases s.inputs.keyEvent with
    | none => exact fun _ => ⟨he, hl, x, hd⟩
    | some k => exact State.waitsAtKeyWait_of_not_wait rfl
  · intro hw
    rw [exec_wait (fun x hx => hk ⟨x, hx⟩) h] at hw
    obtain ⟨-, -, x, hx⟩ := hs hw
    exact absurd ⟨x, Option.some.inj (hd.symm.trans hx)⟩ hk

theorem onStep_keeps_waitsAtKeyWait {input : StepInput} (hs : s.waitsAtKeyWait) (h : s.onStep input = .next t) :
    t.waitsAtKeyWait := by
  rcases onStep_cases h with ⟨-, rfl⟩ | ⟨-, -, hd, rfl⟩ | ⟨he, hl, i, u, hd, hx, rfl⟩
  · exact hs
  · intro hw
    obtain ⟨-, -, x, hx⟩ := hs hw
    exact nomatch hd.symm.trans hx
  · have hu : u.waitsAtKeyWait :=
      exec_keeps_waitsAtKeyWait (s := s.sample input) (State.waitsAtKeyWait_congr hs rfl rfl rfl rfl rfl) he hl hd hx
    exact State.waitsAtKeyWait_congr hu rfl rfl rfl rfl rfl

/-- A LOAD is performed only before any other, where the core does not wait. -/
theorem onLoad_keeps_waitsAtKeyWait {image : List Byte} (hs : s.waitsAtKeyWait) (h : s.onLoad image = .next t) :
    t.waitsAtKeyWait := by
  obtain ⟨hl, ht⟩ := onLoad_cases h
  have hw : s.wait = false := by
    refine Bool.eq_false_iff.2 fun hw => ?_
    obtain ⟨-, hload, -⟩ := hs hw
    exact absurd (hl.symm.trans hload) Bool.false_ne_true
  rcases ht with ⟨-, rfl⟩ | ⟨-, rfl⟩ <;> exact State.waitsAtKeyWait_of_not_wait hw

/-- Settles O57: each of the four events keeps the invariant, a STEP because LD_VX_K alone sets WAIT and leaves PC at
itself. -/
theorem stepKeepsWaitingAtKeyWait : Obligations.StepKeepsWaitingAtKeyWait := by
  intro s t hs h
  refine step_induction ?_ (fun _ => State.waitsAtKeyWait_of_not_wait rfl)
    (fun _ _ _ => onLoad_keeps_waitsAtKeyWait) (fun _ _ _ => onStep_keeps_waitsAtKeyWait)
    (fun _ hu => State.waitsAtKeyWait_congr hu rfl rfl rfl rfl rfl) h
  rw [nextEvent_state]
  exact State.waitsAtKeyWait_congr hs rfl rfl rfl rfl rfl

/-- Settles O58: WAIT is 0 at reset. -/
theorem resetWaitsAtNothing : Obligations.ResetWaitsAtNothing := State.waitsAtKeyWait_of_not_wait rfl

/-! ### The inputs of a STEP -/

theorem raised_sample (i : Instr) (s : State) (b : StepInput) : i.raised (s.sample b) = i.raised s := by
  cases i <;> rfl

/-- An instruction that reads no input completes alike under other inputs. -/
theorem completed_sample (h : i.readsInput = false) (s : State) (b : StepInput) :
    completed i (s.sample b) = (completed i s).sample b := by
  cases i with
  | skp | sknp | ldVxK | rnd => exact nomatch h
  | _ => rfl

theorem exec_sample (hi : i.readsInput = false) (h : exec i s = .next t) (b : StepInput) :
    exec i (s.sample b) = .next (t.sample b) := by
  rcases exec_cases h with ⟨e, hr, rfl⟩ | ⟨hr, rfl⟩
  · exact exec_of_raised ((raised_sample i s b).trans hr)
  · rw [exec_of_not_raised ((raised_sample i s b).trans hr), completed_sample hi]

/-- A STEP that executes an instruction gives its inputs up, and one that does not samples none. -/
theorem onStep_keeps_inputs_absent {input : StepInput} (hs : s.inputs = .absent) (h : s.onStep input = .next t) :
    t.inputs = .absent := by
  rcases onStep_cases h with ⟨-, rfl⟩ | ⟨-, -, -, rfl⟩ | ⟨-, -, i, u, -, -, rfl⟩
  · exact hs
  · exact hs
  · exact u.release_inputs

theorem onLoad_inputs {image : List Byte} (h : s.onLoad image = .next t) : t.inputs = s.inputs := by
  obtain ⟨-, ⟨-, rfl⟩ | ⟨-, rfl⟩⟩ := onLoad_cases h <;> rfl

/-- Settles O10: neither the error raised nor the completed state of the other instructions depends on the inputs, and
each of the four events leaves the field absent. -/
theorem otherInstructionsIgnoreTheInputs : Obligations.OtherInstructionsIgnoreTheInputs := by
  refine ⟨fun i s t a b hi h => exec_sample hi h b, rfl, fun s t hs h => ?_⟩
  refine step_induction (P := fun u => u.inputs = .absent) ?_ (fun _ => rfl)
    (fun _ _ _ hu hl => (onLoad_inputs hl).trans hu) (fun _ _ _ => onStep_keeps_inputs_absent) (fun _ hu => hu) h
  rw [nextEvent_state]
  exact hs

end Sys2Proof.Machine
end

section
/-!
PROOFS. A STEP, the outputs, and a RET behind a CALL (spec/10_state.md R28, R38, R41).
-/

namespace Sys2Proof.Machine

/-- Two bytes that decode, decode as the word they join to. -/
theorem decodeWord_of_decode_pair {hi lo : Byte} {i : Instr} (h : decode [hi, lo] = .ok (i, [])) :
    decodeWord (joinBigEndian hi lo) = some i := by
  cases hd : decodeWord (joinBigEndian hi lo) with
  | none =>
    rw [decode, hd] at h
    exact nomatch h
  | some j =>
    rw [decode, hd] at h
    obtain ⟨rfl, -⟩ := Prod.mk.inj (Except.ok.inj h)
    rfl

/-- Settles O7: the fetched word is the joined pair of bytes, and every instruction answers a next state. -/
theorem stepRunsTheDecodedInstruction : Obligations.StepRunsTheDecodedInstruction := by
  intro s rest input i he hl hscript hdec
  obtain ⟨t, ht⟩ := exec_answers_next i { s with script := rest, inputs := input }
  refine ⟨t, ht, ?_⟩
  rw [step_of_script hscript]
  exact onStep_exec (s := { s with script := rest }) he hl (decodeWord_of_decode_pair hdec) ht

theorem ErrCode.code_eq_zero_iff (e : ErrCode) : e.code = 0 ↔ e = .noError := by
  cases e <;> decide

/-- Settles O21: each output is a field, and ERR is 0 exactly when its code is. -/
theorem outputsAreReadFromTheState : Obligations.OutputsAreReadFromTheState := by
  refine ⟨rfl, rfl, rfl, rfl, rfl, fun s => ⟨rfl, rfl, rfl, decide_eq_true_iff, fun h => ?_, fun h => ?_, ?_⟩⟩
  · exact if_pos ((ErrCode.code_eq_zero_iff s.err).1 h)
  · exact if_neg fun he => h ((ErrCode.code_eq_zero_iff s.err).2 he)
  · exact fun _ _ => rfl

/-! ### CALL and RET (40_control_flow.md R120, R122) -/

theorem exec_call_room {s : State} (nnn : Imm12) (h : s.sp.val < 16) :
    exec (.call nnn) s = .next ((s.pushed s.pc).setPc (absolute nnn)) :=
  exec_of_not_raised (if_neg (Nat.ne_of_lt h))

theorem exec_ret_some {s : State} (h : 0 < s.sp.val) : exec .ret s = .next (s.popped.setPc (s.topEntry + 2)) :=
  exec_of_not_raised (if_neg (Nat.ne_of_gt h))

/-- Settles O25: the entry on top is the address that CALL pushed, and the depth below it is the caller's. -/
theorem retReturnsBehindTheCall : Obligations.RetReturnsBehindTheCall := by
  intro s nnn p h
  have hpos : 0 < (s.pushed s.pc).sp.val := by rw [State.pushed_sp_val h]; exact Nat.succ_pos _
  refine ⟨_, exec_call_room nnn h, ?_⟩
  calc exec .ret ((s.pushed s.pc).setPc p)
      = .next ((s.pushed s.pc).popped.setPc ((s.pushed s.pc).topEntry + 2)) := exec_ret_some hpos
    _ = .next { s with stk := (s.pushed s.pc).stk, pc := s.pc + 2 } := by
        rw [State.popped_pushed h, State.topEntry_pushed h, State.setPc]

end Sys2Proof.Machine
end

section
/-!
PROOFS. Memory (spec/20_memory.md): what a store leaves at I, I + 1, ... and at every other address, and the two
statements that rest on it, the frame of Memory (R69, R72) and self-modifying code (R73).
-/

namespace Sys2Proof.Machine

variable {i : Instr} {s : State}

/-! ### Reading after a store at I -/

/-- An address that a store at I does not reach. -/
theorem read_writeData_of_ne {bs : List Byte} {a : Nat} (h : ∀ k, k < bs.length → a ≠ s.dataAddr k) :
    (s.writeData bs).mem.read a = s.mem.read a :=
  Memory.read_writeBytes_outside s.mem (s.dataAddr 0) a h

/-- A byte of a store at I. -/
theorem read_writeData_dataAddr {bs : List Byte} {k : Nat} (h : k < bs.length) :
    (s.writeData bs).mem.read (s.dataAddr k) = bs.getD k 0 := by
  have hoff : s.dataAddr k - s.dataAddr 0 = k := Nat.add_sub_cancel_left _ _
  rw [State.writeData_mem, Memory.read_writeBytes, hoff,
    if_pos ⟨Nat.le_add_right _ _, Nat.add_lt_add_left h _⟩]

/-- ST_REGS stores V[r] at I + r (46_index_memory.md R213). -/
theorem read_writeData_listV {x r : Reg} (h : r ≤ x) :
    (s.writeData (s.listV x)).mem.read (s.dataAddr r.val) = s.v[r] := by
  rw [read_writeData_dataAddr (by rw [State.length_listV]; exact Nat.lt_succ_of_le h), State.getD_listV s h]

/-! ### The frame of Memory -/

theorem read_completed_of_not_stored {a : Nat} (h : ∀ k, k < i.storeCount → a ≠ s.dataAddr k) :
    (completed i s).mem.read a = s.mem.read a := by
  cases i with
  | ldBcd x => exact read_writeData_of_ne (bs := bcdDigits (s.readV x)) h
  | stRegs x =>
    refine read_writeData_of_ne (bs := s.listV x) fun k hk => h k ?_
    rwa [State.length_listV] at hk
  | ldVxK x => exact congrArg (Memory.read · a) (s.afterKeyWait_mem x _)
  | _ => rfl

/-- Settles O51: raising writes no byte, and of the completed instructions two store, at I and up. -/
theorem onlyStoredBytesChange : Obligations.OnlyStoredBytesChange := fun _ _ _ h a ha =>
  exec_frame (fun u => u.mem.read a) (fun _ => rfl) (read_completed_of_not_stored ha) h

/-! ### Self-modifying code -/

/-- Away from the wrap at 4096, a fetch joins the bytes at two successive addresses. -/
theorem fetch_of_pc_mod {a : Nat} (hpc : s.pc.toNat % 4096 = a) (ha : a + 1 < 4096) :
    s.fetch = s.mem.read a ++ s.mem.read (a + 1) := by
  have hnext : (s.pc.toNat + 1) % 4096 = a + 1 := by omega
  rw [State.fetch, joinBigEndian, hpc, hnext]

theorem exec_stRegs_fits {x : Reg} (h : s.i.toNat + x.val < 4096) :
    exec (.stRegs x) s = .next (s.writeData (s.listV x)).advance :=
  exec_of_not_raised (if_neg (Nat.not_le_of_gt h))

/-- Settles O11: the store does not raise, and the two bytes fetched behind it are its first two, V[0] at I and V[1] at
I + 1. -/
theorem storeIsSeenByTheNextFetch : Obligations.StoreIsSeenByTheNextFetch := by
  intro s t x hx hfits hpc h
  rw [exec_stRegs_fits hfits] at h
  obtain rfl := Host.Outcome.next.inj h
  have hv0 : (s.writeData (s.listV x)).mem.read s.i.toNat = s.v[(0 : Fin 16)] := read_writeData_listV (Fin.zero_le x)
  have hv1 : (s.writeData (s.listV x)).mem.read (s.i.toNat + 1) = s.v[(1 : Fin 16)] := read_writeData_listV (r := 1) hx
  rw [fetch_of_pc_mod (s := (s.writeData (s.listV x)).advance) hpc (by omega), State.advance_mem, hv0, hv1]

end Sys2Proof.Machine
end

section
/-!
PROOFS. The encoding (spec/30_encoding.md). Decoding undoes encoding, the words that do not decode are read off the
fields (R98), and the opcode table is the decoder: a word that decodes lies in the row of its instruction, and the rows
are pairwise disjoint (R94 to R97).
-/

namespace Sys2Proof

/-! ### Decoding an encoded word -/

/-- An instruction is read back from its word. -/
theorem decodeWord_encode (i : Instr) : decodeWord (encode i) = some i := by
  cases i with
  | cls | ret => rfl
  | jp | call | ldI | jpV0 => simp [encode, decodeWord]
  | seImm | sneImm | ldImm | addImm | rnd => simp [encode, decodeWord]
  | seReg | sneReg | drw => simp [encode, decodeWord]
  | ldReg | orReg | andReg | xorReg | addReg | sub | shr | subn | shl => simp [encode, decodeWord, decodeFamily8]
  | skp | sknp => simp [encode, decodeWord, decodeFamilyE]
  | ldVxDt | ldVxK | ldDtVx | ldStVx | addI | ldF | ldBcd | stRegs | ldRegs =>
    simp [encode, decodeWord, decodeFamilyF]

/-- The two bytes of a word decode as the word does, whatever follows them. -/
theorem decode_wordBytes_append {op : OpWord} {i : Instr} (h : decodeWord op = some i) (rest : List Byte) :
    decode (wordBytes op ++ rest) = .ok (i, rest) := by
  simp only [wordBytes, List.cons_append, List.nil_append, decode, joinBigEndian_bytes, h]

/-- Settles O1: an instruction is read back from its word, and so from the word's two bytes. -/
theorem decodeOfEncodeIsTheInstruction : Obligations.DecodeOfEncodeIsTheInstruction := fun i rest =>
  ⟨decodeWord_encode i, decode_wordBytes_append (decodeWord_encode i) rest⟩

/-- Settles O6: each word is the encoding of its instruction. -/
theorem sampleWordsDecode : Obligations.SampleWordsDecode :=
  ⟨decodeWord_encode .cls, decodeWord_encode (.call 0x210), decodeWord_encode (.addImm 1 0xFF),
    decodeWord_encode (.addReg 1 2), decodeWord_encode (.drw 0 0 5), decodeWord_encode (.skp 5),
    decodeWord_encode (.ldRegs 2)⟩

/-! ### The words that do not decode (R98) -/

section
variable (op : OpWord)

theorem decodeFamily0_eq_none_iff : decodeFamily0 op = none ↔ op.toNat ≠ 0x00E0 ∧ op.toNat ≠ 0x00EE := by
  simp [decodeFamily0, BitVec.toNat_eq, ite_eq_iff]

theorem decodeFamily8_eq_none_iff : decodeFamily8 op = none ↔
    (fieldN op).toNat = 0xF ∨ (0x8 ≤ (fieldN op).toNat ∧ (fieldN op).toNat ≤ 0xD) := by
  have hn := (fieldN op).isLt
  unfold decodeFamily8
  split
  case h_10 =>
    refine iff_of_true rfl ?_
    simp only [imp_false] at *
    omega
  all_goals exact iff_of_false (Option.some_ne_none _) (by omega)

theorem decodeFamilyE_eq_none_iff : decodeFamilyE op = none ↔
    (fieldKk op).toNat ≠ 0x9E ∧ (fieldKk op).toNat ≠ 0xA1 := by
  unfold decodeFamilyE
  split <;> simp_all

theorem decodeFamilyF_eq_none_iff : decodeFamilyF op = none ↔
    (fieldKk op).toNat ∉ [0x07, 0x0A, 0x15, 0x18, 0x1E, 0x29, 0x33, 0x55, 0x65] := by
  unfold decodeFamilyF
  split <;> simp_all

/-- Only the four families that are decoded further hold words that do not decode. -/
theorem decodeWord_eq_none_iff : decodeWord op = none ↔
    ((fieldTop op).toNat = 0x0 ∧ decodeFamily0 op = none) ∨ ((fieldTop op).toNat = 0x8 ∧ decodeFamily8 op = none) ∨
    ((fieldTop op).toNat = 0xE ∧ decodeFamilyE op = none) ∨ ((fieldTop op).toNat = 0xF ∧ decodeFamilyF op = none) := by
  have htop := (fieldTop op).isLt
  unfold decodeWord
  split
  case h_1 | h_9 | h_15 | h_16 => simp [*]
  case h_17 =>
    simp only [imp_false] at *
    omega
  all_goals exact iff_of_false (Option.some_ne_none _) (by omega)

end

/-- Settles O3: the four families and their fields, read as quotients and remainders of the word. -/
theorem illegalWordsAreExactlyTheListedOnes : Obligations.IllegalWordsAreExactlyTheListedOnes := by
  intro op
  rw [decodeWord_eq_none_iff, decodeFamily0_eq_none_iff, decodeFamily8_eq_none_iff, decodeFamilyE_eq_none_iff,
    decodeFamilyF_eq_none_iff, Laws.EncodesLegal.top_eq, Laws.EncodesLegal.low_eq, Laws.EncodesLegal.kk_eq]

/-! ### The rows of the opcode table are disjoint (R95) -/

section
variable {r r' : OpcodeRow} {op : OpWord}

theorem OpcodeRow.covers_iff : r.covers op = true ↔ op &&& r.mask = r.pattern := beq_iff_eq

/-- The patterns of two rows that cover one word agree under both masks. -/
theorem OpcodeRow.pattern_and_mask_eq (h : r.covers op = true) (h' : r'.covers op = true) :
    r.pattern &&& r'.mask = r'.pattern &&& r.mask := by
  rw [← covers_iff.1 h, ← covers_iff.1 h', BitVec.and_assoc, BitVec.and_assoc, BitVec.and_comm r.mask]

end

/-- Two rows of the table whose patterns agree under both masks are one row. -/
theorem opcodeRows_eq_of_pattern_and_mask_eq : ∀ r ∈ opcodeRows, ∀ r' ∈ opcodeRows,
    r.pattern &&& r'.mask = r'.pattern &&& r.mask → r = r' := by
  decide

/-- Settles O4: a word that two rows cover would make their patterns agree under both masks. -/
theorem noWordMatchesTwoRows : Obligations.NoWordMatchesTwoRows := fun _ r r' hr hr' h h' =>
  opcodeRows_eq_of_pattern_and_mask_eq r hr r' hr' (OpcodeRow.pattern_and_mask_eq h h')

/-! ### The decoder and the table (R94, R97) -/

section
variable {op : OpWord} {t k : Nat}

theorem and_topMask (ht : (fieldTop op).toNat = t) : op &&& 0xF000 = BitVec.ofNat 4 t ++ 0#12 := by
  calc op &&& 0xF000
      = encodeA (fieldTop op) (fieldNnn op) &&& (BitVec.allOnes 4 ++ 0#12) := by rw [encodeA_fields]; rfl
    _ = fieldTop op ++ 0#12 := by rw [encodeA, BitVec.and_append, BitVec.and_allOnes, BitVec.and_zero]
    _ = BitVec.ofNat 4 t ++ 0#12 := by rw [← ht, BitVec.ofNat_toNat, BitVec.setWidth_eq]

theorem and_topLowMask (ht : (fieldTop op).toNat = t) (hn : (fieldN op).toNat = k) :
    op &&& 0xF00F = BitVec.ofNat 4 t ++ 0#4 ++ 0#4 ++ BitVec.ofNat 4 k := by
  calc op &&& 0xF00F
      = encodeXYN (fieldTop op) (fieldX op) (fieldY op) (fieldN op) &&&
          (BitVec.allOnes 4 ++ 0#4 ++ 0#4 ++ BitVec.allOnes 4) := by rw [encodeXYN_fields]; rfl
    _ = fieldTop op ++ 0#4 ++ 0#4 ++ fieldN op := by
        rw [encodeXYN, BitVec.and_append, BitVec.and_append, BitVec.and_append, BitVec.and_allOnes, BitVec.and_zero,
          BitVec.and_zero, BitVec.and_allOnes]
    _ = _ := by rw [← ht, ← hn, BitVec.ofNat_toNat, BitVec.ofNat_toNat, BitVec.setWidth_eq, BitVec.setWidth_eq]

theorem and_topByteMask (ht : (fieldTop op).toNat = t) (hkk : (fieldKk op).toNat = k) :
    op &&& 0xF0FF = BitVec.ofNat 4 t ++ 0#4 ++ BitVec.ofNat 8 k := by
  calc op &&& 0xF0FF
      = encodeXK (fieldTop op) (fieldX op) (fieldKk op) &&& (BitVec.allOnes 4 ++ 0#4 ++ BitVec.allOnes 8) := by
        rw [encodeXK_fields]; rfl
    _ = fieldTop op ++ 0#4 ++ fieldKk op := by
        rw [encodeXK, BitVec.and_append, BitVec.and_append, BitVec.and_allOnes, BitVec.and_zero, BitVec.and_allOnes]
    _ = _ := by rw [← ht, ← hkk, BitVec.ofNat_toNat, BitVec.ofNat_toNat, BitVec.setWidth_eq, BitVec.setWidth_eq]

end

/-- The bits on which an instruction's word is decoded: all, the top nibble with the low nibble or with the low byte,
or the top nibble alone (R94). -/
def Instr.mask : Instr → OpWord
  | .cls | .ret => 0xFFFF
  | .ldReg _ _ | .orReg _ _ | .andReg _ _ | .xorReg _ _ | .addReg _ _ | .sub _ _ | .shr _ _ | .subn _ _
  | .shl _ _ => 0xF00F
  | .skp _ | .sknp _ | .ldVxDt _ | .ldVxK _ | .ldDtVx _ | .ldStVx _ | .addI _ | .ldF _ | .ldBcd _ | .stRegs _
  | .ldRegs _ => 0xF0FF
  | _ => 0xF000

/-- The row that an instruction's mnemonic and mask make of a word. -/
def Instr.rowAt (i : Instr) (op : OpWord) : OpcodeRow := ⟨i.mnemonic, i.mask, op &&& i.mask⟩

section
variable {op : OpWord} {i : Instr}

theorem Instr.rowAt_covers (i : Instr) (op : OpWord) : (i.rowAt op).covers op = true := OpcodeRow.covers_iff.2 rfl

theorem rowAt_mem_of_decodeFamily0 (h : decodeFamily0 op = some i) : i.rowAt op ∈ opcodeRows := by
  unfold decodeFamily0 at h
  split_ifs at h with hcls hret
  · cases h
    subst hcls
    decide
  · cases h
    subst hret
    decide

theorem rowAt_mem_of_decodeFamily8 (ht : (fieldTop op).toNat = 0x8) (h : decodeFamily8 op = some i) :
    i.rowAt op ∈ opcodeRows := by
  unfold decodeFamily8 at h
  split at h <;> cases h
  all_goals
    simp only [Instr.rowAt, Instr.mnemonic, Instr.mask, and_topLowMask ht ‹_›]
    decide

theorem rowAt_mem_of_decodeFamilyE (ht : (fieldTop op).toNat = 0xE) (h : decodeFamilyE op = some i) :
    i.rowAt op ∈ opcodeRows := by
  unfold decodeFamilyE at h
  split at h <;> cases h
  all_goals
    simp only [Instr.rowAt, Instr.mnemonic, Instr.mask, and_topByteMask ht ‹_›]
    decide

theorem rowAt_mem_of_decodeFamilyF (ht : (fieldTop op).toNat = 0xF) (h : decodeFamilyF op = some i) :
    i.rowAt op ∈ opcodeRows := by
  unfold decodeFamilyF at h
  split at h <;> cases h
  all_goals
    simp only [Instr.rowAt, Instr.mnemonic, Instr.mask, and_topByteMask ht ‹_›]
    decide

/-- A word that decodes lies in the row of its instruction. -/
theorem rowAt_mem_of_decodeWord (h : decodeWord op = some i) : i.rowAt op ∈ opcodeRows := by
  unfold decodeWord at h
  split at h
  case h_1 => exact rowAt_mem_of_decodeFamily0 h
  case h_9 ht => exact rowAt_mem_of_decodeFamily8 ht h
  case h_15 ht => exact rowAt_mem_of_decodeFamilyE ht h
  case h_16 ht => exact rowAt_mem_of_decodeFamilyF ht h
  case h_17 => exact nomatch h
  all_goals
    cases h
    simp only [Instr.rowAt, Instr.mnemonic, Instr.mask, and_topMask ‹_›]
    decide

end

section
variable {r : OpcodeRow} {op : OpWord}

/-- A field that the mask keeps whole is the pattern's in every word of the row. -/
theorem OpcodeRow.slice_of_covers {k n : Nat} (h : r.covers op = true)
    (hm : r.mask.extractLsb' k n = BitVec.allOnes n) : op.extractLsb' k n = r.pattern.extractLsb' k n := by
  rw [← covers_iff.1 h, BitVec.extractLsb'_and, hm, BitVec.and_allOnes]

/-- Each row keeps the fields on which its family is decoded. -/
theorem opcodeRows_mask_keeps : ∀ r ∈ opcodeRows,
    fieldTop r.mask = BitVec.allOnes 4 ∧
    ((fieldTop r.pattern).toNat = 0x0 → r.mask = BitVec.allOnes 16) ∧
    ((fieldTop r.pattern).toNat = 0x8 → fieldN r.mask = BitVec.allOnes 4) ∧
    ((fieldTop r.pattern).toNat = 0xE ∨ (fieldTop r.pattern).toNat = 0xF → fieldKk r.mask = BitVec.allOnes 8) := by
  decide

theorem opcodeRows_pattern_decodes : ∀ r ∈ opcodeRows, decodeWord r.pattern ≠ none := by
  decide

/-- A word of a row decodes, because the row's pattern does and has the same deciding fields. -/
theorem decodeWord_ne_none_of_covers (hr : r ∈ opcodeRows) (h : r.covers op = true) : decodeWord op ≠ none := by
  obtain ⟨htop, hwhole, hn, hkk⟩ := opcodeRows_mask_keeps r hr
  have htop : fieldTop op = fieldTop r.pattern := OpcodeRow.slice_of_covers h htop
  refine mt (fun hnone => ?_) (opcodeRows_pattern_decodes r hr)
  rw [decodeWord_eq_none_iff, htop] at hnone
  rw [decodeWord_eq_none_iff]
  rcases hnone with ⟨ht, h0⟩ | ⟨ht, h8⟩ | ⟨ht, hE⟩ | ⟨ht, hF⟩
  · have hop : op = r.pattern := by rw [← OpcodeRow.covers_iff.1 h, hwhole ht, BitVec.and_allOnes]
    exact .inl ⟨ht, hop ▸ h0⟩
  · have hop : fieldN op = fieldN r.pattern := OpcodeRow.slice_of_covers h (hn ht)
    rw [decodeFamily8_eq_none_iff, hop, ← decodeFamily8_eq_none_iff] at h8
    exact .inr (.inl ⟨ht, h8⟩)
  · have hop : fieldKk op = fieldKk r.pattern := OpcodeRow.slice_of_covers h (hkk (.inl ht))
    rw [decodeFamilyE_eq_none_iff, hop, ← decodeFamilyE_eq_none_iff] at hE
    exact .inr (.inr (.inl ⟨ht, hE⟩))
  · have hop : fieldKk op = fieldKk r.pattern := OpcodeRow.slice_of_covers h (hkk (.inr ht))
    rw [decodeFamilyF_eq_none_iff, hop, ← decodeFamilyF_eq_none_iff] at hF
    exact .inr (.inr (.inr ⟨ht, hF⟩))

end

/-- Settles O5: a word that decodes lies in its instruction's row, and a word of a row decodes, to an instruction of
that row since no word lies in two. -/
theorem decodingFollowsTheOpcodeTable : Obligations.DecodingFollowsTheOpcodeTable := by
  refine fun op => ⟨fun i hi => ⟨i.rowAt op, rowAt_mem_of_decodeWord hi, rfl, i.rowAt_covers op⟩, fun r hr h => ?_⟩
  obtain ⟨i, hi⟩ := Option.ne_none_iff_exists'.1 (decodeWord_ne_none_of_covers hr h)
  have hrow : i.rowAt op = r := noWordMatchesTwoRows op _ r (rowAt_mem_of_decodeWord hi) hr (i.rowAt_covers op) h
  exact ⟨i, hi, congrArg OpcodeRow.mnemonic hrow⟩

end Sys2Proof
end

section
/-!
PROOFS. Control transfer (spec/40_control_flow.md): the words of the formats XK and XYN with the register numbers
written as numbers, the targets of the jumps as numbers, the skip under a condition, and the statements about RET, JP,
CALL, JP_V0 and the four register skips.
-/

namespace Sys2Proof

/-! ### The words of a format (30_encoding.md R91) -/

theorem append_ofNat_eq_encodeXK (t : Nibble) (x : Reg) (kk : Byte) :
    t ++ BitVec.ofNat 4 x.val ++ kk = encodeXK t x kk := by
  rw [encodeXK, regBits_eq_ofNat]

theorem append_ofNat_eq_encodeXYN (t : Nibble) (x y : Reg) (n : Nibble) :
    t ++ BitVec.ofNat 4 x.val ++ BitVec.ofNat 4 y.val ++ n = encodeXYN t x y n := by
  rw [encodeXYN, regBits_eq_ofNat, regBits_eq_ofNat]

end Sys2Proof

namespace Sys2Proof.Machine

/-! ### Jump targets -/

theorem absolute_eq_ofNat (nnn : Imm12) : absolute nnn = BitVec.ofNat 16 nnn.toNat := (BitVec.ofNat_toNat 16 nnn).symm

/-- The target of JP_V0 as the sum of two numbers (R123). -/
theorem State.offsetTarget_eq_ofNat (s : State) (nnn : Imm12) :
    s.offsetTarget nnn = BitVec.ofNat 16 (s.v[(0 : Fin 16)].toNat + nnn.toNat) := by
  rw [BitVec.ofNat_add, BitVec.ofNat_toNat, ← absolute_eq_ofNat, State.offsetTarget, State.readV_eq]

/-! ### Jumps and the call stack (R120 to R123) -/

/-- Settles O22: the pop finds no entry at zero depth, and the entry below SP above it. -/
theorem retPopsTheCallStack : Obligations.RetPopsTheCallStack := by
  refine ⟨decodeWord_encode .ret, fun s => ⟨fun hempty => exec_of_raised (if_pos hempty), fun d hd hsp => ?_⟩⟩
  simp only [exec, execRet, s.pop_some hsp hd, State.setPc]

/-- Settles O23: the target is nnn zero-extended. -/
theorem jpSetsPc : Obligations.JpSetsPc := by
  refine fun nnn s => ⟨decodeWord_encode (.jp nnn), ?_⟩
  rw [← absolute_eq_ofNat]
  rfl

/-- Settles O24: the push finds no room at full depth, and stores PC at SP below it. -/
theorem callPushesItsOwnAddress : Obligations.CallPushesItsOwnAddress := by
  refine fun nnn s => ⟨decodeWord_encode (.call nnn), fun hfull => exec_of_raised (if_pos hfull), fun hroom => ?_⟩
  simp only [exec, execCall, s.push_room hroom, State.setPc, absolute_eq_ofNat]

/-- Settles O26: the target is the sum of V[0] and nnn as numbers. -/
theorem jpV0AddsV0 : Obligations.JpV0AddsV0 := by
  refine fun nnn s => ⟨decodeWord_encode (.jpV0 nnn), ?_⟩
  rw [← State.offsetTarget_eq_ofNat]
  rfl

/-! ### Skips (R124 to R127) -/

/-- A skip under a Boolean that decides p writes PC alone, by p. -/
theorem State.skipIf_eq (s : State) {c : Bool} {p : Prop} [Decidable p] (h : c = true ↔ p) :
    s.skipIf c = { s with pc := if p then s.pc + 4 else s.pc + 2 } := by
  rw [State.skipIf, State.setPc, if_congr h rfl rfl]

/-- Settles O27: both are skips, under the equality of V[x] and kk and under its negation. -/
theorem immediateSkips : Obligations.ImmediateSkips := by
  intro x kk s
  rw [append_ofNat_eq_encodeXK, append_ofNat_eq_encodeXK]
  exact ⟨decodeWord_encode (.seImm x kk), decodeWord_encode (.sneImm x kk),
    congrArg Host.Outcome.next (s.skipIf_eq beq_iff_eq), congrArg Host.Outcome.next (s.skipIf_eq bne_iff_ne)⟩

/-- Settles O28: both are skips, under the equality of V[x] and V[y] and under its negation, and neither reads u. -/
theorem registerSkips : Obligations.RegisterSkips := by
  intro x y u s
  rw [append_ofNat_eq_encodeXYN, append_ofNat_eq_encodeXYN]
  exact ⟨decodeWord_encode (.seReg x y u), decodeWord_encode (.sneReg x y u),
    congrArg Host.Outcome.next (s.skipIf_eq beq_iff_eq), congrArg Host.Outcome.next (s.skipIf_eq bne_iff_ne)⟩

end Sys2Proof.Machine
end

section
/-!
PROOFS. Immediate loads and the random byte (spec/41_load_immediate.md): the register write with PC behind it, the sum
of two bytes as a number, and the statements about LD_IMM, ADD_IMM, LD_I and RND.
-/

namespace Sys2Proof.Machine

/-- The result of an instruction that writes one register: V[x] and PC + 2. -/
theorem State.advance_writeV (s : State) (x : Reg) (b : Byte) :
    (s.writeV x b).advance = { s with v := s.v.set x b, pc := s.pc + 2 } := rfl

theorem State.advance_setI (s : State) (a : Word) : (s.setI a).advance = { s with i := a, pc := s.pc + 2 } := rfl

/-- The sum of two bytes is the sum of the numbers modulo 256. -/
theorem byte_add_eq_ofNat (a b : Byte) : a + b = BitVec.ofNat 8 ((a.toNat + b.toNat) % 256) := by
  rw [← BitVec.toNat_add, BitVec.ofNat_toNat, BitVec.setWidth_eq]

/-- Settles O29: both write V[x] and PC alone, ADD_IMM the sum of two bytes. -/
theorem immediateLoadAndAdd : Obligations.ImmediateLoadAndAdd := by
  intro x kk s
  rw [append_ofNat_eq_encodeXK, append_ofNat_eq_encodeXK, ← byte_add_eq_ofNat]
  exact ⟨decodeWord_encode (.ldImm x kk), decodeWord_encode (.addImm x kk),
    congrArg Host.Outcome.next (s.advance_writeV x kk),
    congrArg Host.Outcome.next (s.advance_writeV x (s.readV x + kk))⟩

/-- Settles O30: nnn is zero-extended as the jump targets are, and I and PC alone are written. -/
theorem ldISetsI : Obligations.LdISetsI := by
  intro nnn s
  rw [← absolute_eq_ofNat]
  exact ⟨decodeWord_encode (.ldI nnn), congrArg Host.Outcome.next (s.advance_setI (absolute nnn))⟩

/-- Settles O31: V[x] is the masked random byte of the inputs, whatever they are, and V[x] and PC alone are written. -/
theorem rndMasksTheRandomByte : Obligations.RndMasksTheRandomByte := by
  intro x kk s
  rw [append_ofNat_eq_encodeXK]
  exact ⟨decodeWord_encode (.rnd x kk),
    congrArg Host.Outcome.next (s.advance_writeV x (s.inputs.randByte &&& kk))⟩

end Sys2Proof.Machine
end

section
/-!
PROOFS. Register-register ALU (spec/42_alu.md): the flagged write with PC behind it, each flag and each result as the
rule's number, and the statements about LD_REG, OR, AND, XOR and the five flag-writing instructions.
-/

namespace Sys2Proof.Machine

/-! ### The flagged write (R160) -/

/-- The result of an instruction that writes a flag and then one register: VF, V[x] and PC + 2. -/
theorem State.advance_writeFlagged (s : State) (x : Reg) (f b : Byte) :
    (s.writeFlagged x f b).advance = { s with v := (s.v.set 15 f).set x b, pc := s.pc + 2 } := rfl

/-- An instruction that ends in a flagged write to VF itself leaves the result there, not the flag. -/
theorem vf_of_next_writeFlagged_vf {s t : State} {f b : Byte}
    (h : (.next (s.writeFlagged 15 f b).advance : Result) = .next t) : t.v[(15 : Fin 16)] = b := by
  obtain rfl := Host.Outcome.next.inj h
  exact Vector.getElem_set_self _

/-! ### Flags as numbers -/

theorem flagByte_decide (p : Prop) [Decidable p] : flagByte (decide p) = if p then 1 else 0 :=
  if_congr decide_eq_true_iff rfl rfl

theorem carryFlag_eq_ite (a b : Byte) : carryFlag a b = if a.toNat + b.toNat > 255 then 1 else 0 := flagByte_decide _

theorem greaterFlag_eq_ite (a b : Byte) : greaterFlag a b = if a.toNat > b.toNat then 1 else 0 := flagByte_decide _

/-- A bit of a byte as a flag is a quotient's remainder. -/
theorem flagByte_getLsbD (a : Byte) (k : Nat) : flagByte (a.getLsbD k) = BitVec.ofNat 8 (a.toNat / 2 ^ k % 2) := by
  rw [BitVec.getLsbD, Nat.testBit_eq_decide_div_mod_eq, flagByte_decide]
  rcases Nat.mod_two_eq_zero_or_one (a.toNat / 2 ^ k) with h | h <;> rw [h] <;> rfl

theorem lowBitFlag_eq_ofNat (a : Byte) : lowBitFlag a = BitVec.ofNat 8 (a.toNat % 2) := by
  rw [lowBitFlag, flagByte_getLsbD, Nat.pow_zero, Nat.div_one]

/-- The highest bit is the quotient itself, which is below 2. -/
theorem highBitFlag_eq_ofNat (a : Byte) : highBitFlag a = BitVec.ofNat 8 (a.toNat / 128) := by
  have hlt : a.toNat / 128 < 2 := Nat.div_lt_of_lt_mul a.isLt
  rw [highBitFlag, flagByte_getLsbD]
  exact congrArg (BitVec.ofNat 8) (Nat.mod_eq_of_lt hlt)

/-! ### Results as numbers (R170) -/

/-- The difference of two bytes is the difference of the integers modulo 256. -/
theorem byte_sub_eq_ofInt (a b : Byte) : a - b = BitVec.ofInt 8 (((a.toNat : Int) - b.toNat) % 256) := by
  have ha := a.isLt
  have hb := b.isLt
  apply BitVec.eq_of_toNat_eq
  rw [BitVec.toNat_sub, BitVec.toNat_ofInt]
  omega

/-- A right shift by one halves the number. -/
theorem byte_shiftRight_one_eq_ofNat (a : Byte) : a >>> 1 = BitVec.ofNat 8 (a.toNat / 2) := by
  rw [← Nat.shiftRight_one, ← BitVec.toNat_ushiftRight, BitVec.ofNat_toNat, BitVec.setWidth_eq]

/-- A left shift by one doubles the number modulo 256. -/
theorem byte_shiftLeft_one_eq_ofNat (a : Byte) : a <<< 1 = BitVec.ofNat 8 (a.toNat * 2 % 256) :=
  BitVec.eq_of_toNat_eq <| by
    rw [BitVec.toNat_shiftLeft, BitVec.toNat_ofNat, Nat.shiftLeft_eq, Nat.pow_one, Nat.mod_mod]

/-! ### The statements -/

/-- Settles O32: each of the four writes V[x] and PC alone. -/
theorem copyAndBitwise : Obligations.CopyAndBitwise := by
  intro x y s
  simp only [append_ofNat_eq_encodeXYN]
  exact ⟨decodeWord_encode (.ldReg x y), decodeWord_encode (.orReg x y), decodeWord_encode (.andReg x y),
    decodeWord_encode (.xorReg x y), congrArg Host.Outcome.next (s.advance_writeV x _),
    congrArg Host.Outcome.next (s.advance_writeV x _), congrArg Host.Outcome.next (s.advance_writeV x _),
    congrArg Host.Outcome.next (s.advance_writeV x _)⟩

/-- Settles O33: a flagged write of the carry and of the sum of two bytes. -/
theorem addRegSetsCarry : Obligations.AddRegSetsCarry := by
  intro x y s
  rw [append_ofNat_eq_encodeXYN, ← carryFlag_eq_ite, ← byte_add_eq_ofNat]
  exact ⟨decodeWord_encode (.addReg x y), congrArg Host.Outcome.next (s.advance_writeFlagged x _ _)⟩

/-- Settles O34: flagged writes of the comparison and the difference, with the operands in one order and the other. -/
theorem subtractionsSetStrictlyGreater : Obligations.SubtractionsSetStrictlyGreater := by
  intro x y s
  simp only [append_ofNat_eq_encodeXYN, ← greaterFlag_eq_ite, ← byte_sub_eq_ofInt]
  exact ⟨decodeWord_encode (.sub x y), decodeWord_encode (.subn x y),
    congrArg Host.Outcome.next (s.advance_writeFlagged x _ _),
    congrArg Host.Outcome.next (s.advance_writeFlagged x _ _)⟩

/-- Settles O35: flagged writes of the bit shifted out and the byte shifted by one; neither reads y. -/
theorem shiftsOfVxByOne : Obligations.ShiftsOfVxByOne := by
  intro x y s
  rw [append_ofNat_eq_encodeXYN, append_ofNat_eq_encodeXYN, ← lowBitFlag_eq_ofNat, ← byte_shiftRight_one_eq_ofNat,
    ← highBitFlag_eq_ofNat, ← byte_shiftLeft_one_eq_ofNat]
  exact ⟨decodeWord_encode (.shr x y), decodeWord_encode (.shl x y),
    congrArg Host.Outcome.next (s.advance_writeFlagged x _ _),
    congrArg Host.Outcome.next (s.advance_writeFlagged x _ _)⟩

/-- Settles O36: each of the five is a flagged write, and to VF the result is written last. -/
theorem resultRemainsWhenDestinationIsVF : Obligations.ResultRemainsWhenDestinationIsVF := fun _ _ _ =>
  ⟨fun h => (vf_of_next_writeFlagged_vf h).trans (byte_add_eq_ofNat _ _),
    fun h => (vf_of_next_writeFlagged_vf h).trans (byte_sub_eq_ofInt _ _),
    fun h => (vf_of_next_writeFlagged_vf h).trans (byte_shiftRight_one_eq_ofNat _),
    fun h => (vf_of_next_writeFlagged_vf h).trans (byte_sub_eq_ofInt _ _),
    fun h => (vf_of_next_writeFlagged_vf h).trans (byte_shiftLeft_one_eq_ofNat _)⟩

end Sys2Proof.Machine
end

section
/-!
PROOFS. Display (spec/43_display.md): the buffer that DRW's loops leave as the picture `State.spriteBit` describes, what
DRW answers by the table of errors, where a sprite's 1 bits land, and the statements about CLS and DRW.
-/

namespace Sys2Proof.Machine

variable {s t : State} {x y x' y' : Reg} {n : Nibble}

/-! ### The picture of a sprite (R181) -/

/-- The cover of the sprite in Memory, at the origin taken modulo the screen, is the sprite bit of the picture. -/
theorem rowsCover_readData (s : State) (x y : Reg) (n : Nibble) (px : Fin 64) (py : Fin 32) :
    rowsCover ((s.readV x).toNat % 64) ((s.readV y).toNat % 32) (s.readData n.toNat) px py = s.spriteBit x y n px py := by
  simp only [rowsCover, spriteColumn, spriteRow, State.spriteBit, State.readData, State.dataAddr, State.readV_eq,
    Nat.mod_mod, Nat.add_zero, Memory.length_readBytes]
  by_cases hr : (py.val + 32 - s.v[y].toNat % 32) % 32 < n.toNat
  · rw [Memory.getD_readBytes _ _ hr, Bool.and_comm (decide _) (decide _)]
  · simp only [hr, decide_false, Bool.false_and, Bool.and_false]

theorem State.length_readData_lt (s : State) (n : Nibble) : (s.readData n.toNat).length < 32 := by
  rw [State.readData, Memory.length_readBytes]
  exact n.isLt.trans (by decide)

theorem State.pixel_drawn (s : State) (x y : Reg) (n : Nibble) (px : Fin 64) (py : Fin 32) :
    (s.drawn x y n).1.pixel px py = (s.fb.pixel px py ^^ s.spriteBit x y n px py) := by
  rw [State.drawn, pixel_drawRows (s.length_readData_lt n), rowsCover_readData]

theorem State.collides_iff :
    s.collides x y n = true ↔ ∃ px py, s.fb.pixel px py = true ∧ s.spriteBit x y n px py = true := decide_eq_true_iff

theorem State.drawn_snd (s : State) (x y : Reg) (n : Nibble) : (s.drawn x y n).2 = s.collides x y n := by
  rw [Bool.eq_iff_iff, State.collides_iff, State.drawn, collision_drawRows (s.length_readData_lt n)]
  simp only [rowsCover_readData, Bool.false_eq_true, false_or]

/-! ### What DRW answers -/

theorem completed_drw (s : State) (x y : Reg) (n : Nibble) :
    completed (.drw x y n) s = { s with
      fb := (s.drawn x y n).1, v := s.v.set 15 (if s.collides x y n then 1 else 0), pc := s.pc + 2 } := by
  rw [← State.drawn_snd]
  rfl

theorem vf_completed_drw (s : State) (x y : Reg) (n : Nibble) :
    (completed (.drw x y n) s).v[(15 : Fin 16)] = flagByte (s.collides x y n) := by
  rw [completed_drw]
  exact Vector.getElem_set_self _

theorem flagByte_eq_one_iff (c : Bool) : flagByte c = 1 ↔ c = true := by cases c <;> decide

theorem flagByte_eq_zero_iff (c : Bool) : flagByte c = 0 ↔ ¬ c = true := by cases c <;> decide

theorem raised_drw_eq_none_iff :
    (Instr.drw x y n).raised s = none ↔ n.toNat = 0 ∨ s.i.toNat + (n.toNat - 1) < 4096 := by
  rw [Instr.raised, ite_eq_right_iff]
  simp only [reduceCtorEq, imp_false]
  omega

/-- Whether DRW raises does not depend on the origin, nor on any field but I. -/
theorem raised_drw_congr (hi : t.i = s.i) : (Instr.drw x' y' n).raised t = (Instr.drw x y n).raised s := by
  simp only [Instr.raised, hi]

/-- Settles O37: the empty buffer and PC + 2. -/
theorem clsTurnsEveryPixelOff : Obligations.ClsTurnsEveryPixelOff :=
  ⟨decodeWord_encode .cls, fun _ => ⟨Display.empty, rfl, Display.pixel_empty⟩⟩

/-- Settles O38: DRW raises where the table says so, and elsewhere completes with the picture that its loops draw. -/
theorem drwXorsTheSpriteWithWrap : Obligations.DrwXorsTheSpriteWithWrap := by
  intro x y n s
  rw [append_ofNat_eq_encodeXYN]
  refine ⟨decodeWord_encode (.drw x y n), fun hout => exec_of_raised (if_pos hout), fun hfits => ?_⟩
  refine ⟨(s.drawn x y n).1, ?_, s.pixel_drawn x y n⟩
  rw [exec_of_not_raised (raised_drw_eq_none_iff.2 hfits), completed_drw]

/-! ### Drawing twice (R182) -/

/-- The sprite bit looks at I, Memory and the origin modulo the screen only. -/
theorem State.spriteBit_congr (hi : t.i = s.i) (hm : t.mem = s.mem) (hx : t.v[x'].toNat % 64 = s.v[x].toNat % 64)
    (hy : t.v[y'].toNat % 32 = s.v[y].toNat % 32) (px : Fin 64) (py : Fin 32) :
    t.spriteBit x' y' n px py = s.spriteBit x y n px py := by
  simp only [State.spriteBit, hi, hm, hx, hy]

/-- XOR with one picture twice restores every pixel. -/
theorem State.drawn_of_drawn (hfb : t.fb = (s.drawn x y n).1)
    (hbit : ∀ px py, t.spriteBit x' y' n px py = s.spriteBit x y n px py) : (t.drawn x' y' n).1 = s.fb := by
  refine Display.ext_pixel fun px py => ?_
  rw [State.pixel_drawn, hfb, State.pixel_drawn, hbit, Bool.xor_assoc, Bool.xor_self, Bool.xor_false]

theorem State.collides_of_empty (hempty : ∀ px py, s.fb.pixel px py = false) : s.collides x y n = false := by
  refine Bool.eq_false_iff.2 fun hc => ?_
  obtain ⟨px, py, hon, -⟩ := State.collides_iff.1 hc
  exact Bool.false_ne_true ((hempty px py).symm.trans hon)

/-- On a buffer that shows the sprite alone, a second draw collides where the sprite has a 1 bit. -/
theorem State.collides_of_drawn (hfb : t.fb = (s.drawn x y n).1)
    (hbit : ∀ px py, t.spriteBit x' y' n px py = s.spriteBit x y n px py)
    (hempty : ∀ px py, s.fb.pixel px py = false) :
    t.collides x' y' n = true ↔ ∃ px py, s.spriteBit x y n px py = true := by
  simp only [State.collides_iff, hfb, State.pixel_drawn, hempty, hbit, Bool.false_xor, and_self]

theorem spriteColumn_column {ox c : Nat} (hc : c < 64) : spriteColumn ox (column (ox + c)) = c :=
  ((column_eq_iff hc).1 rfl).symm

theorem spriteRow_row {oy r : Nat} (hr : r < 32) : spriteRow oy (row (oy + r)) = r := ((row_eq_iff hr).1 rfl).symm

theorem State.spriteBit_iff (px : Fin 64) (py : Fin 32) :
    s.spriteBit x y n px py = true ↔
      spriteColumn s.v[x].toNat px < 8 ∧ spriteRow s.v[y].toNat py < n.toNat ∧
        (s.mem.read (s.i.toNat + spriteRow s.v[y].toNat py)).getLsbD (7 - spriteColumn s.v[x].toNat px) = true := by
  simp only [State.spriteBit, Bool.and_eq_true, decide_eq_true_eq, and_assoc, spriteColumn, spriteRow]

theorem byte_ne_zero_iff (b : Byte) : b ≠ 0 ↔ ∃ c, c < 8 ∧ b.getLsbD (7 - c) = true := by
  refine ⟨fun hb => ?_, fun ⟨c, _, hc⟩ hb => by simp [hb] at hc⟩
  by_contra hnone
  refine hb (BitVec.eq_of_getLsbD_eq fun j hj => ?_)
  have hbit : ¬ b.getLsbD (7 - (7 - j)) = true := fun h => hnone ⟨7 - j, by omega, h⟩
  rw [show 7 - (7 - j) = j by omega] at hbit
  simpa using hbit

/-- Every bit of a sprite lands on some pixel, so a sprite shows exactly when one of its bytes is not zero. -/
theorem State.exists_spriteBit_iff :
    (∃ px py, s.spriteBit x y n px py = true) ↔ ∃ k, k < n.toNat ∧ s.mem.read (s.i.toNat + k) ≠ 0 := by
  simp only [State.spriteBit_iff, byte_ne_zero_iff]
  constructor
  · rintro ⟨px, py, hc, hr, hbit⟩
    exact ⟨_, hr, _, hc, hbit⟩
  · rintro ⟨k, hk, c, hc, hbit⟩
    have hcol : spriteColumn s.v[x].toNat (column (s.v[x].toNat + c)) = c := spriteColumn_column (by omega)
    have hrow : spriteRow s.v[y].toNat (row (s.v[y].toNat + k)) = k := spriteRow_row (by have := n.isLt; omega)
    exact ⟨column (s.v[x].toNat + c), row (s.v[y].toNat + k), by rw [hcol, hrow]; exact ⟨hc, hk, hbit⟩⟩

/-- Settles O39: both draws raise or both complete, since they test the same addresses; they complete with one picture,
XORed twice, and the second collides on the first. -/
theorem drawingTwiceRestoresTheBuffer : Obligations.DrawingTwiceRestoresTheBuffer := by
  intro s t u x y x' y' n hst htu hx hy
  have hi : t.i = s.i := exec_frame State.i (fun _ => rfl) rfl hst
  have hm : t.mem = s.mem := exec_frame State.mem (fun _ => rfl) rfl hst
  have hraised : (Instr.drw x' y' n).raised t = (Instr.drw x y n).raised s := raised_drw_congr hi
  rcases exec_cases hst with ⟨e, hr, rfl⟩ | ⟨hr, ht⟩
  · rw [exec_of_raised (hraised.trans hr)] at htu
    obtain rfl := Host.Outcome.next.inj htu
    exact ⟨rfl, fun hfits => absurd (hr.symm.trans (raised_drw_eq_none_iff.2 hfits)) (Option.some_ne_none e)⟩
  · rw [exec_of_not_raised (hraised.trans hr)] at htu
    obtain rfl := Host.Outcome.next.inj htu
    have hfb : t.fb = (s.drawn x y n).1 := congrArg State.fb ht
    have hbit := State.spriteBit_congr (n := n) hi hm hx hy
    refine ⟨State.drawn_of_drawn hfb hbit, fun _ hempty => ?_⟩
    have hcollides := (State.collides_of_drawn hfb hbit hempty).trans State.exists_spriteBit_iff
    rw [vf_completed_drw, flagByte_eq_one_iff, flagByte_eq_zero_iff, hcollides]
    refine ⟨?_, Iff.rfl, ?_⟩
    · rw [ht, vf_completed_drw, State.collides_of_empty hempty, flagByte_eq_zero_iff]
      exact Bool.false_ne_true
    · push Not
      exact Iff.rfl

end Sys2Proof.Machine
end

section
/-!
PROOFS. Keypad (spec/44_keypad.md): the key a register value selects as a number, the state behind LD_VX_K in its two
cases, and the statements about SKP, SKNP and LD_VX_K.
-/

namespace Sys2Proof.Machine

/-! ### Key skips (R190, R191) -/

theorem toNat_keyNumber (a : Byte) : (keyNumber a).toNat = a.toNat % 16 := BitVec.extractLsb'_toNat 0 4 a

theorem State.keyHeld_eq (s : State) (a : Byte) : s.keyHeld a = s.inputs.keyDown.getLsbD (a.toNat % 16) := by
  rw [State.keyHeld, toNat_keyNumber]

/-- Settles O40: both are skips, under the level of the key that V[x] selects and under its negation. -/
theorem keySkips : Obligations.KeySkips := by
  intro x s
  rw [append_ofNat_eq_encodeXK, append_ofNat_eq_encodeXK, ← State.keyHeld_eq]
  exact ⟨decodeWord_encode (.skp x), decodeWord_encode (.sknp x),
    congrArg Host.Outcome.next (s.skipIf_eq Iff.rfl),
    congrArg Host.Outcome.next (s.skipIf_eq (Bool.not_eq_true' _).to_iff)⟩

/-! ### The key wait (R192) -/

theorem State.afterKeyWait_none (s : State) (x : Reg) : s.afterKeyWait x none = { s with wait := true } := rfl

/-- The key's number, zero-extended, is the byte of that number. -/
theorem State.afterKeyWait_some (s : State) (x : Reg) (k : Nibble) :
    s.afterKeyWait x (some k) =
      { s with v := s.v.set x (BitVec.ofNat 8 k.toNat), wait := false, pc := s.pc + 2 } := by
  rw [BitVec.ofNat_toNat]
  rfl

theorem exec_ldVxK (x : Reg) (s : State) : exec (.ldVxK x) s = .next (s.afterKeyWait x s.inputs.keyEvent) := rfl

/-- Settles O41: LD_VX_K never raises, and what it leaves is decided by the key event of the inputs. -/
theorem ldVxKWaitsForAKey : Obligations.LdVxKWaitsForAKey := by
  intro x s
  rw [append_ofNat_eq_encodeXK, exec_ldVxK]
  refine ⟨decodeWord_encode (.ldVxK x), fun hnone => ?_, fun k hsome => ?_⟩
  · rw [hnone, State.afterKeyWait_none]
  · rw [hsome, State.afterKeyWait_some]

end Sys2Proof.Machine
end

section
/-!
PROOFS. Timer access (spec/45_timers.md): a timer write with PC behind it, and the statement about LD_VX_DT, LD_DT_VX
and LD_ST_VX.
-/

namespace Sys2Proof.Machine

theorem State.advance_setDt (s : State) (b : Byte) : (s.setDt b).advance = { s with dt := b, pc := s.pc + 2 } := rfl

theorem State.advance_setSt (s : State) (b : Byte) : (s.setSt b).advance = { s with st := b, pc := s.pc + 2 } := rfl

/-- Settles O43: LD_VX_DT is a register write of DT, and the other two write V[x] to one timer and PC alone. -/
theorem timerAccess : Obligations.TimerAccess := by
  intro x s
  simp only [append_ofNat_eq_encodeXK]
  exact ⟨decodeWord_encode (.ldVxDt x), decodeWord_encode (.ldDtVx x), decodeWord_encode (.ldStVx x),
    congrArg Host.Outcome.next (s.advance_writeV x s.dt), congrArg Host.Outcome.next (s.advance_setDt (s.readV x)),
    congrArg Host.Outcome.next (s.advance_setSt (s.readV x))⟩

end Sys2Proof.Machine
end

section
/-!
PROOFS. Address register and memory (spec/46_index_memory.md): the sum and the product that go to I as numbers, the
store at I and the load from I with PC behind them, and the statements about ADD_I, LD_F, LD_BCD, ST_REGS and LD_REGS.
-/

namespace Sys2Proof.Machine

variable {s : State} {x r : Reg}

/-! ### Values of I (R210, R211) -/

/-- The sum of a word and a zero-extended byte is the sum of the numbers modulo 65536. -/
theorem word_add_setWidth_eq_ofNat (w : Word) (b : Byte) :
    w + b.setWidth 16 = BitVec.ofNat 16 ((w.toNat + b.toNat) % 65536) := by
  apply BitVec.eq_of_toNat_eq
  rw [BitVec.toNat_add, BitVec.toNat_setWidth_of_le (by decide), BitVec.toNat_ofNat, Nat.mod_mod]

/-- The address of a glyph as the product of two numbers. -/
theorem glyphAddr_eq_ofNat (b : Byte) : glyphAddr b = BitVec.ofNat 16 (5 * b.toNat) := by
  rw [BitVec.ofNat_mul, BitVec.ofNat_toNat, glyphAddr]
  rfl

/-- Settles O44: I and PC alone are written, I with the sum of I and V[x]. -/
theorem addIWraps : Obligations.AddIWraps := by
  intro x s
  rw [append_ofNat_eq_encodeXK, ← word_add_setWidth_eq_ofNat]
  exact ⟨decodeWord_encode (.addI x), congrArg Host.Outcome.next (s.advance_setI _)⟩

/-- Settles O45: I and PC alone are written, I with the glyph's address for the whole of V[x]. -/
theorem ldFIsFiveTimesVx : Obligations.LdFIsFiveTimesVx := by
  intro x s
  rw [append_ofNat_eq_encodeXK, ← glyphAddr_eq_ofNat]
  exact ⟨decodeWord_encode (.ldF x), congrArg Host.Outcome.next (s.advance_setI _)⟩

/-! ### Stores at I (R212, R213) -/

/-- The result of an instruction that stores at I: Memory and PC + 2. -/
theorem State.advance_writeData (s : State) (bs : List Byte) :
    (s.writeData bs).advance = { s with mem := (s.writeData bs).mem, pc := s.pc + 2 } := rfl

theorem exec_ldBcd_fits (h : s.i.toNat + 2 < 4096) :
    exec (.ldBcd x) s = .next (s.writeData (bcdDigits (s.readV x))).advance :=
  exec_of_not_raised (if_neg (Nat.not_le_of_gt h))

/-- LD_BCD stores digit k of the three at I + k (R212). -/
theorem read_writeData_bcdDigits (s : State) (b : Byte) {k : Nat} (h : k < 3) :
    (s.writeData (bcdDigits b)).mem.read (s.dataAddr k) = (bcdDigits b).getD k 0 :=
  read_writeData_dataAddr h

/-- Settles O46: LD_BCD raises where the table says so, and elsewhere completes with the three digits stored at I and
the two addresses above it. -/
theorem ldBcdStoresTheDigits : Obligations.LdBcdStoresTheDigits := by
  intro x s
  rw [append_ofNat_eq_encodeXK]
  refine ⟨decodeWord_encode (.ldBcd x), fun hout => exec_of_raised (if_pos hout), fun hfits => ?_⟩
  refine ⟨(s.writeData (bcdDigits (s.readV x))).mem, ?_, read_writeData_bcdDigits s _ (k := 0) (by decide),
    read_writeData_bcdDigits s _ (k := 1) (by decide), read_writeData_bcdDigits s _ (k := 2) (by decide),
    fun a h0 h1 h2 => read_writeData_of_ne fun k hk => ?_⟩
  · rw [exec_ldBcd_fits hfits, State.advance_writeData]
  · match k, hk with
    | 0, _ => exact h0
    | 1, _ => exact h1
    | 2, _ => exact h2

/-- Settles O47: ST_REGS raises where the table says so, and elsewhere completes with V[k] stored at I + k. -/
theorem stRegsStoresV0ToVx : Obligations.StRegsStoresV0ToVx := by
  intro x s
  rw [append_ofNat_eq_encodeXK]
  refine ⟨decodeWord_encode (.stRegs x), fun hout => exec_of_raised (if_pos hout), fun hfits => ?_⟩
  refine ⟨(s.writeData (s.listV x)).mem, ?_, fun _ => read_writeData_listV,
    fun a ha => read_writeData_of_ne fun k hk => ?_⟩
  · rw [exec_stRegs_fits hfits, State.advance_writeData]
  · rw [State.length_listV] at hk
    exact ha ⟨k, Nat.lt_of_lt_of_le hk x.isLt⟩ (Nat.le_of_lt_succ hk)

/-! ### The load from I (R214) -/

/-- The result of an instruction that loads registers: V and PC + 2. -/
theorem State.advance_loadV (s : State) (x : Reg) (bs : List Byte) :
    (s.loadV x bs).advance = { s with v := (s.loadV x bs).v, pc := s.pc + 2 } := rfl

theorem exec_ldRegs_fits (h : s.i.toNat + x.val < 4096) :
    exec (.ldRegs x) s = .next (s.loadV x (s.readData (x.val + 1))).advance :=
  exec_of_not_raised (if_neg (Nat.not_le_of_gt h))

/-- LD_REGS loads V[r] from I + r (R214). -/
theorem getElem_loadV_readData (h : r ≤ x) :
    (s.loadV x (s.readData (x.val + 1))).v[r] = s.mem.read (s.dataAddr r.val) := by
  rw [← State.readV_eq, State.readV_loadV, if_pos h]
  exact Memory.getD_readBytes s.mem (s.dataAddr 0) (Nat.lt_succ_of_le h)

/-- Settles O48: LD_REGS raises where the table says so, and elsewhere completes with V[k] loaded from I + k. -/
theorem ldRegsLoadsV0ToVx : Obligations.LdRegsLoadsV0ToVx := by
  intro x s
  rw [append_ofNat_eq_encodeXK]
  refine ⟨decodeWord_encode (.ldRegs x), fun hout => exec_of_raised (if_pos hout), fun hfits => ?_⟩
  refine ⟨(s.loadV x (s.readData (x.val + 1))).v, ?_, fun _ => getElem_loadV_readData,
    fun _ hk => getElem_loadV_above s _ (Fin.not_le.2 hk)⟩
  rw [exec_ldRegs_fits hfits, State.advance_loadV]

end Sys2Proof.Machine
end

section
/-!
PROOFS. Errors (spec/60_exceptions.md R230, R231, R235 to R238): a completed instruction leaves ERR as it was, and the
statements about raising, about a word that does not decode, and about the halt.
-/

namespace Sys2Proof.Machine

theorem completed_err (i : Instr) (s : State) : (completed i s).err = s.err := by
  cases i with
  | ldVxK x => exact s.afterKeyWait_err x _
  | _ => rfl

/-- Settles O19: where the table names an error the instruction raises it, and elsewhere it completes. -/
theorem instructionsRaiseExactlyTheListedErrors : Obligations.InstructionsRaiseExactlyTheListedErrors := fun i s =>
  ⟨fun _ => exec_of_raised, fun h => ⟨completed i s, exec_of_not_raised h, completed_err i s⟩⟩

/-- Settles O20: of the two things an instruction can do, completing leaves ERR, so ERR changed by raising. -/
theorem errorsArePrecise : Obligations.ErrorsArePrecise := by
  intro i s t h herr
  rcases exec_cases h with ⟨e, -, rfl⟩ | ⟨-, rfl⟩
  · rfl
  · exact absurd (completed_err i s) herr

/-- Settles O9: the fetched word is the joined pair of bytes, and a STEP that finds no instruction in it raises. -/
theorem unmatchedWordRaisesDecodeError : Obligations.UnmatchedWordRaisesDecodeError := by
  intro s rest input he hl hscript hdec
  rw [step_of_script hscript]
  exact onStep_decodeError (s := { s with script := rest }) he hl hdec

/-- Settles O18: the halt is tested before the inputs of a STEP are sampled, TICK writes the timers alone, and ERR is 0
at reset. -/
theorem haltedCoreStaysHalted : Obligations.HaltedCoreStaysHalted := by
  intro s rest herr
  refine ⟨fun input h => ?_, fun h => ⟨_, _, step_of_script h⟩, fun h => ⟨_, step_of_script h, rfl⟩⟩
  rw [step_of_script h]
  exact onStep_halted (s := { s with script := rest }) herr

end Sys2Proof.Machine
end

section
/-!
PROOFS. TICK and waiting (spec/60_exceptions.md R243, R244, R252): a timer at a TICK as a number floored at 0, what one
event does at an LD_VX_K, and the two statements about scripts of any length.
-/

namespace Sys2Proof.Machine

variable {s : State} {rest : List HostEvent} {x : Reg}

/-! ### Timers (R243, R244) -/

/-- The floor at 0 is that of the difference of numbers. -/
theorem toNat_countDown (b : Byte) : (countDown b).toNat = b.toNat - 1 := by
  by_cases h : b = 0
  · rw [countDown, if_pos h, h]
    rfl
  · have hpos : 1 ≤ b.toNat := Nat.one_le_iff_ne_zero.2 fun h0 => h (BitVec.eq_of_toNat_eq h0)
    rw [countDown, if_neg h]
    exact BitVec.toNat_sub_of_le hpos

theorem countDown_eq_ite (b : Byte) : countDown b = if b.toNat > 0 then BitVec.ofNat 8 (b.toNat - 1) else b := by
  split
  · rw [← toNat_countDown, BitVec.ofNat_toNat, BitVec.setWidth_eq]
  · next h =>
    apply BitVec.eq_of_toNat_eq
    rw [toNat_countDown]
    omega

/-- Settles O16: TICK counts each timer down, in every state. -/
theorem tickCountsBothTimersDown : Obligations.TickCountsBothTimersDown := by
  intro s rest h
  rw [← countDown_eq_ite, ← countDown_eq_ite]
  exact step_of_script h

/-- One TICK and then n take n + 1 from a timer. -/
theorem ofNat_countDown_sub (b : Byte) (n : Nat) :
    BitVec.ofNat 8 ((countDown b).toNat - n) = BitVec.ofNat 8 (b.toNat - (n + 1)) := by
  rw [toNat_countDown, Nat.sub_sub, Nat.add_comm]

/-- Settles O17: induction on the number of TICKs, the first of them counting both timers down. -/
theorem ticksFloorTheTimersAtZero : Obligations.TicksFloorTheTimersAtZero := by
  intro n
  induction n with
  | zero =>
    intro s h
    simp only [Nat.sub_zero, BitVec.ofNat_toNat, BitVec.setWidth_eq, ← show s.script = [] from h]
    rfl
  | succ n ih =>
    intro s h
    rw [run_succ n (step_of_script h), ← ofNat_countDown_sub, ← ofNat_countDown_sub]
    exact ih _ rfl

/-! ### The key wait (R252) -/

/-- At an LD_VX_K, a STEP without a key event sets WAIT and gives its inputs up. -/
theorem onStep_ldVxK_of_no_key {input : StepInput} (he : s.err = .noError) (hl : s.loadIssued = true)
    (hd : decodeWord s.fetch = some (.ldVxK x)) (hkey : input.keyEvent = none) :
    s.onStep input = .next { s with wait := true, inputs := .absent } := by
  refine onStep_exec he hl hd (t := { s.sample input with wait := true }) ?_
  rw [exec_ldVxK, State.sample_inputs, hkey, State.afterKeyWait_none]

/-- At an LD_VX_K, neither a TICK nor a STEP without a key event makes progress. -/
theorem step_at_ldVxK {e : HostEvent} (he : s.err = .noError) (hl : s.loadIssued = true)
    (hd : decodeWord s.fetch = some (.ldVxK x)) (hscript : s.script = e :: rest)
    (hevent : e = .tick ∨ ∃ input, e = .step input ∧ input.keyEvent = none) :
    ∃ dt st wait inputs,
      step s = .next { s with dt := dt, st := st, wait := wait, inputs := inputs, script := rest } := by
  rw [step_of_script hscript]
  rcases hevent with rfl | ⟨input, rfl, hkey⟩
  · exact ⟨_, _, _, _, rfl⟩
  · exact ⟨_, _, _, _, onStep_ldVxK_of_no_key (s := { s with script := rest }) he hl hd hkey⟩

/-- Settles O42: induction on the script, each event leaving the core at the same LD_VX_K. -/
theorem keyWaitHoldsWithoutAKeyEvent : Obligations.KeyWaitHoldsWithoutAKeyEvent := by
  intro s x he hl hd hevents
  induction hscript : s.script generalizing s with
  | nil => exact ⟨s, rfl, by rw [← hscript]⟩
  | cons e rest ih =>
    rw [hscript] at hevents
    obtain ⟨hevent, hrest⟩ := List.forall_mem_cons.1 hevents
    obtain ⟨dt, st, wait, inputs, hstep⟩ := step_at_ldVxK he hl hd hscript hevent
    rw [List.length_cons, run_succ _ hstep]
    exact ih _ he hl hd hrest rfl

end Sys2Proof.Machine
end

section
/-!
PROOFS. RESET and the launch order (spec/70_reset_and_hazards.md R260 to R264): the values RESET leaves, the two answers
of a first LOAD, the statements about them, and the invariant that until a LOAD the core has the values RESET leaves.
-/

namespace Sys2Proof.Machine

variable {s t : State} {rest : List HostEvent} {image : List Byte} {input : StepInput}

/-! ### RESET (R260) -/

theorem Memory.resetByte_above {a : Nat} (h : 80 ≤ a) : Memory.resetByte a = 0 := List.getD_eq_default _ _ h

theorem asResetLeaves_reset : State.reset.asResetLeaves :=
  ⟨fun _ _ => rfl, fun _ ha _ => Memory.resetByte_above ha, fun x => Vector.getElem_replicate x.isLt, rfl, rfl, rfl,
    rfl, Display.pixel_empty, rfl, rfl⟩

theorem asResetLeaves_onReset (s : State) : s.onReset.asResetLeaves := asResetLeaves_reset

theorem step_reset (h : s.script = .reset :: rest) : step s = .next { s with script := rest }.onReset :=
  step_of_script h

/-- Settles O12: a RESET event leaves the reset state but for the script and the count of free inputs. -/
theorem resetLeavesTheStatedValues : Obligations.ResetLeavesTheStatedValues :=
  ⟨asResetLeaves_reset, fun _ _ h => ⟨_, step_reset h, asResetLeaves_onReset _, rfl, rfl⟩⟩

/-! ### LOAD (R262) -/

theorem onLoad_issued (hl : s.loadIssued = true) : s.onLoad image = .refused .loadOutOfOrder := if_pos hl

theorem onLoad_too_long (hl : s.loadIssued = false) (hlen : image.length > 3584) :
    s.onLoad image = .next { s with loadIssued := true, err := .memoryOutOfBounds } := by
  rw [State.onLoad, if_neg (Bool.eq_false_iff.1 hl), if_pos hlen, raise_eq]

theorem onLoad_fits (hl : s.loadIssued = false) (hlen : image.length ≤ 3584) :
    s.onLoad image = .next ({ s with loadIssued := true }.loaded image) := by
  rw [State.onLoad, if_neg (Bool.eq_false_iff.1 hl), if_neg (Nat.not_lt_of_le hlen)]

theorem step_load_fits (hl : s.loadIssued = false) (hscript : s.script = .load image :: rest)
    (hlen : image.length ≤ 3584) :
    step s = .next ({ s with script := rest, loadIssued := true }.loaded image) :=
  (step_of_script hscript).trans (onLoad_fits (s := { s with script := rest }) hl hlen)

theorem Memory.read_writeBytes_inside (m : Memory) (a : Nat) {bs : List Byte} {j : Nat} (h : j < bs.length) :
    (m.writeBytes a bs).read (a + j) = bs.getD j 0 := by
  rw [Memory.read_writeBytes, if_pos ⟨Nat.le_add_right a j, Nat.add_lt_add_left h a⟩, Nat.add_sub_cancel_left]

/-- Settles O13: an image that fits is one run of writes from 0x200 up; a longer one raises. -/
theorem loadCopiesTheImage : Obligations.LoadCopiesTheImage := by
  intro s image rest hl hscript
  refine ⟨fun hlen => ?_, fun hlen => ?_⟩
  · exact ⟨s.mem.writeBytes 0x200 image, step_load_fits hl hscript hlen,
      fun _ => Memory.read_writeBytes_inside s.mem 0x200, fun a => Memory.read_writeBytes_outside s.mem 0x200 a⟩
  · exact (step_of_script hscript).trans (onLoad_too_long (s := { s with script := rest }) hl hlen)

/-! ### The launch (R263, R264) -/

/-- Memory at the first instruction: the image from 0x200, and around it the bytes RESET leaves. -/
theorem read_reset_writeBytes (image : List Byte) {a : Nat} (ha : a < 4096) :
    (State.reset.mem.writeBytes 0x200 image).read a =
      if a < 80 then Config.glyphRom.getD a 0
      else if 0x200 ≤ a ∧ a < 0x200 + image.length then image.getD (a - 0x200) 0 else 0 := by
  obtain ⟨hglyph, hzero, -⟩ := asResetLeaves_reset
  rw [Memory.read_writeBytes]
  by_cases hlow : a < 80
  · rw [if_pos hlow, if_neg (by omega), hglyph a hlow]
  · rw [if_neg hlow, hzero a (Nat.le_of_not_lt hlow) ha]

/-- Settles O14: LOAD writes Memory and PC alone over the values RESET leaves. -/
theorem launchStateAfterResetAndLoad : Obligations.LaunchStateAfterResetAndLoad := by
  intro s image rest hlen hscript
  obtain ⟨-, -, hv, hi, hsp, hdt, hst, hfb, herr, hwait⟩ := asResetLeaves_onReset s
  refine ⟨{ s.onReset with script := rest, loadIssued := true }.loaded image, ?_, rfl, hv, hi, hsp, hdt, hst, hfb,
    herr, hwait, rfl, fun _ => read_reset_writeBytes image⟩
  rw [run_succ 1 (step_reset hscript), run_succ 0 (step_load_fits rfl rfl hlen)]
  rfl

/-- Settles O15: each refusal is the event's own, whatever the rest of the script. -/
theorem launchOutOfOrderIsRefused : Obligations.LaunchOutOfOrderIsRefused := by
  refine fun s rest input image => ⟨fun he hl hscript => ?_, fun hl hscript => ?_⟩
  · exact (step_of_script hscript).trans (onStep_before_load (s := { s with script := rest }) he hl)
  · exact (step_of_script hscript).trans (onLoad_issued (s := { s with script := rest }) hl)

theorem launchesFromReset_reset : State.reset.launchesFromReset := fun _ =>
  ⟨asResetLeaves_reset, rfl, rfl, fun k => Vector.getElem_replicate k.isLt⟩

/-- Settles O60: the reset state has the values and the model's choices, and no LOAD is issued in it. -/
theorem resetIsInLaunchOrder : Obligations.ResetIsInLaunchOrder := ⟨rfl, launchesFromReset_reset⟩

/-- The invariant says nothing behind a LOAD. -/
theorem launchesFromReset_of_loadIssued (h : s.loadIssued = true) : s.launchesFromReset := fun hl =>
  absurd (hl.symm.trans h) Bool.false_ne_true

theorem onTick_of_timers_zero (hdt : s.dt = 0) (hst : s.st = 0) : s.onTick = s := by
  have hdt' : countDown s.dt = s.dt := by rw [hdt]; rfl
  have hst' : countDown s.st = s.st := by rw [hst]; rfl
  rw [State.onTick, hdt', hst']
  rfl

/-- Until a LOAD both timers are 0, where a TICK changes nothing. -/
theorem onTick_keeps_launchesFromReset (hs : s.launchesFromReset) : s.onTick.launchesFromReset := by
  intro hl
  obtain ⟨⟨-, -, -, -, -, hdt, hst, -⟩, -⟩ := hs hl
  rw [onTick_of_timers_zero hdt hst]
  exact hs hl

theorem onLoad_loadIssued (h : s.onLoad image = .next t) : t.loadIssued = true := by
  obtain ⟨-, ⟨-, rfl⟩ | ⟨-, rfl⟩⟩ := onLoad_cases h <;> rfl

/-- A STEP that answers changes nothing or runs behind a LOAD, where the launch order is left as it is. -/
theorem onStep_keeps_launchesFromReset (hs : s.launchesFromReset) (h : s.onStep input = .next t) :
    t.launchesFromReset := by
  rcases onStep_cases h with ⟨-, rfl⟩ | ⟨-, hl, -, rfl⟩ | ⟨-, hl, i, u, -, hx, rfl⟩
  · exact hs
  · exact launchesFromReset_of_loadIssued hl
  · have hu : u.loadIssued = s.loadIssued :=
      exec_frame State.loadIssued (s := s.sample input) (fun _ => rfl) (completed_loadIssued i _) hx
    exact launchesFromReset_of_loadIssued (hu.trans hl)

/-- Settles O59: RESET establishes the invariant, a TICK before any LOAD changes nothing, and behind a LOAD there is
nothing to keep. -/
theorem stepKeepsTheLaunchOrder : Obligations.StepKeepsTheLaunchOrder := by
  intro s t hs h
  refine step_induction ?_ (fun _ => launchesFromReset_reset)
    (fun _ _ _ _ hload => launchesFromReset_of_loadIssued (onLoad_loadIssued hload))
    (fun _ _ _ => onStep_keeps_launchesFromReset) (fun _ => onTick_keeps_launchesFromReset) h
  rw [nextEvent_state]
  exact hs

end Sys2Proof.Machine
end

section
/-!
PROOFS. Memory stays canonical (spec/20_memory.md R67, 70_reset_and_hazards.md R262): a completed store ends at 4096 or
below, since it raises otherwise, and so does an image that LOAD copies.
-/

namespace Sys2Proof.Machine

variable {i : Instr} {s t : State}

/-- Settles O56: no byte is listed at reset. -/
theorem memoryIsCanonicalAtReset : Obligations.MemoryIsCanonicalAtReset := Memory.wf_nil

/-- An instruction that does not raise stores below 4096 only. -/
theorem storeEnd_le_of_not_raised (h : i.raised s = none) (hpos : 0 < i.storeCount) :
    s.i.toNat + i.storeCount ≤ 4096 := by
  cases i with
  | ldBcd x | stRegs x =>
    simp only [Instr.raised, ite_eq_right_iff, reduceCtorEq, imp_false] at h
    simp only [Instr.storeCount]
    omega
  | _ => exact absurd hpos (Nat.lt_irrefl 0)

theorem wf_writeData {bs : List Byte} (hm : s.mem.wf) (h : s.i.toNat + bs.length ≤ 4096) :
    (s.writeData bs).mem.wf := Memory.wf_writeBytes (a := s.i.toNat) hm h

theorem wf_completed (hm : s.mem.wf) (hr : i.raised s = none) : (completed i s).mem.wf := by
  have hend := storeEnd_le_of_not_raised hr
  cases i with
  | ldBcd x => exact wf_writeData hm (hend (Nat.succ_pos 2))
  | stRegs x => exact wf_writeData hm (by rw [State.length_listV]; exact hend (Nat.succ_pos _))
  | ldVxK x => exact (s.afterKeyWait_mem x _).symm ▸ hm
  | _ => exact hm

theorem exec_keeps_wf (hm : s.mem.wf) (h : exec i s = .next t) : t.mem.wf := by
  rcases exec_cases h with ⟨e, -, rfl⟩ | ⟨hr, rfl⟩
  · exact hm
  · exact wf_completed hm hr

theorem onStep_keeps_wf {input : StepInput} (hm : s.mem.wf) (h : s.onStep input = .next t) : t.mem.wf := by
  rcases onStep_cases h with ⟨-, rfl⟩ | ⟨-, -, -, rfl⟩ | ⟨-, -, i, u, -, hx, rfl⟩
  · exact hm
  · exact hm
  · have hu : u.mem.wf := exec_keeps_wf (s := s.sample input) hm hx
    exact hu

theorem onLoad_keeps_wf {image : List Byte} (hm : s.mem.wf) (h : s.onLoad image = .next t) : t.mem.wf := by
  obtain ⟨-, ⟨-, rfl⟩ | ⟨hlen, rfl⟩⟩ := onLoad_cases h
  · exact hm
  · exact Memory.wf_writeBytes hm (Nat.add_le_add_left hlen 0x200)

/-- Settles O55: only a STEP and a LOAD write Memory, both below 4096. -/
theorem stepKeepsMemoryCanonical : Obligations.StepKeepsMemoryCanonical := by
  intro s t hm h
  refine step_induction (P := fun u => u.mem.wf) ?_ (fun _ => Memory.wf_nil) (fun _ _ _ => onLoad_keeps_wf)
    (fun _ _ _ => onStep_keeps_wf) (fun _ hu => hu) h
  rw [nextEvent_state]
  exact hm

end Sys2Proof.Machine
end

section
/-!
PROOFS. Encoding undoes decoding (spec/30_encoding.md R92, R94): a word with the fields on which it was decoded written
as numbers is the word of its format.
-/

namespace Sys2Proof

/-! ### The word of a format from the fields it was decoded on -/

section
variable {op : OpWord} {i : Instr} {t k : Nat}

theorem encodeA_of_top (ht : (fieldTop op).toNat = t) : encodeA (BitVec.ofNat 4 t) (fieldNnn op) = op := by
  rw [← ht, BitVec.ofNat_toNat, BitVec.setWidth_eq, encodeA_fields]

theorem encodeXK_of_top (ht : (fieldTop op).toNat = t) :
    encodeXK (BitVec.ofNat 4 t) (fieldX op) (fieldKk op) = op := by
  rw [← ht, BitVec.ofNat_toNat, BitVec.setWidth_eq, encodeXK_fields]

theorem encodeXYN_of_top (ht : (fieldTop op).toNat = t) :
    encodeXYN (BitVec.ofNat 4 t) (fieldX op) (fieldY op) (fieldN op) = op := by
  rw [← ht, BitVec.ofNat_toNat, BitVec.setWidth_eq, encodeXYN_fields]

theorem encodeXK_of_top_kk (ht : (fieldTop op).toNat = t) (hkk : (fieldKk op).toNat = k) :
    encodeXK (BitVec.ofNat 4 t) (fieldX op) (BitVec.ofNat 8 k) = op := by
  rw [← hkk, BitVec.ofNat_toNat, BitVec.setWidth_eq, encodeXK_of_top ht]

theorem encodeXYN_of_top_n (ht : (fieldTop op).toNat = t) (hn : (fieldN op).toNat = k) :
    encodeXYN (BitVec.ofNat 4 t) (fieldX op) (fieldY op) (BitVec.ofNat 4 k) = op := by
  rw [← hn, BitVec.ofNat_toNat, BitVec.setWidth_eq, encodeXYN_of_top ht]

/-! ### The families that are decoded further -/

theorem encode_of_decodeFamily0 (h : decodeFamily0 op = some i) : encode i = op := by
  unfold decodeFamily0 at h
  split_ifs at h with hcls hret <;> cases h
  · exact hcls.symm
  · exact hret.symm

theorem encode_of_decodeFamily8 (ht : (fieldTop op).toNat = 0x8) (h : decodeFamily8 op = some i) : encode i = op := by
  unfold decodeFamily8 at h
  split at h <;> cases h
  all_goals exact encodeXYN_of_top_n ht ‹_›

theorem encode_of_decodeFamilyE (ht : (fieldTop op).toNat = 0xE) (h : decodeFamilyE op = some i) : encode i = op := by
  unfold decodeFamilyE at h
  split at h <;> cases h
  all_goals exact encodeXK_of_top_kk ht ‹_›

theorem encode_of_decodeFamilyF (ht : (fieldTop op).toNat = 0xF) (h : decodeFamilyF op = some i) : encode i = op := by
  unfold decodeFamilyF at h
  split at h <;> cases h
  all_goals exact encodeXK_of_top_kk ht ‹_›

end

/-- Settles O2: by the families of the decoder, each of one format, the word is put together from its fields. -/
theorem encodeOfDecodeIsTheWord : Obligations.EncodeOfDecodeIsTheWord := by
  intro op i h
  unfold decodeWord at h
  split at h
  case h_1 => exact encode_of_decodeFamily0 h
  case h_9 ht => exact encode_of_decodeFamily8 ht h
  case h_15 ht => exact encode_of_decodeFamilyE ht h
  case h_16 ht => exact encode_of_decodeFamilyF ht h
  case h_17 => exact nomatch h
  all_goals cases h
  case h_2 ht | h_3 ht | h_11 ht | h_12 ht => exact encodeA_of_top ht
  case h_4 ht | h_5 ht | h_7 ht | h_8 ht | h_13 ht => exact encodeXK_of_top ht
  case h_6 ht | h_10 ht | h_14 ht => exact encodeXYN_of_top ht

end Sys2Proof
end

section
/-!
PROOFS. A step on an empty script (spec/10_state.md section 9; the model's choice of free inputs).
-/

namespace Sys2Proof.Machine

/-- Settles O8: the step is a STEP with the free inputs of the current index, and every instruction answers a next
state. -/
theorem stepWithoutScriptTakesFreeInputs : Obligations.StepWithoutScriptTakesFreeInputs := by
  intro s i he hl hscript hdec
  obtain ⟨t, ht⟩ := exec_answers_next i { s with freeIndex := s.freeIndex + 1, inputs := freeInput s.freeIndex }
  refine ⟨t, ht, ?_⟩
  rw [step_of_empty hscript]
  exact onStep_exec (s := { s with freeIndex := s.freeIndex + 1 }) he hl (decodeWord_of_decode_pair hdec) ht

end Sys2Proof.Machine
end
